-- ==== Sys2Proof/Word.lean ====
section
/-!
DEFINITION. Word: the fixed widths of the block's values (00_scope R9, 30_encoding R79). Every quantity
is unsigned; nothing in the block is signed.
-/
namespace Sys2Proof

/-- The unit of the input stream, of payloads and of every narrow field (R8 `BYTE`, R9). -/
abbrev Byte := BitVec 8

/-- A 16-bit field: `cmd`, `size`, `rem` (R19, R20, R22). -/
abbrev Half := BitVec 16

/-- The stream offset, `OFFSET_WIDTH` = 64 bits, wrapping (R15; log 8). -/
abbrev Offset := BitVec 64

end Sys2Proof
end

