-- ==== Sys2Proof/Config.lean ====
section
/-!
DEFINITION. Config: the parameters of 00_scope R8 that are fixed for this hardware, and the default values of
the two capacity parameters. The capacities themselves are instance parameters and stand in State (log 7).
The spec leaves no result undefined after which the machine goes on, so Config holds no free value.
-/
namespace Sys2Proof

/-- Generator polynomial of the extended CRC without the x^8 term (R8 `CRC_POLY`). -/
abbrev Config.crcPoly : Byte := 0xD5

/-- Initial value of the CRC register (R8 `CRC_INIT`). -/
abbrev Config.crcInit : Byte := 0x00

/-- Largest legacy payload ENC accepts (R8 `LEGACY_MAX`, R97). -/
abbrev Config.legacyMax : Nat := 255

/-- Largest extended payload ENC accepts (R8 `EXT_MAX`, R97). -/
abbrev Config.extMax : Nat := 65535

/-- Default of `MAX_PAYLOAD_LEGACY` (R8, R123). -/
abbrev Config.defaultMaxLegacy : Byte := 255

/-- Default of `MAX_PAYLOAD_EXT` (R8, R123). -/
abbrev Config.defaultMaxExt : Half := 65535

end Sys2Proof
end

