-- ==== Sys2Proof/Syntax.lean ====
section
/-!
DEFINITION. Syntax: the names the spec gives values (generation, direction, phase, error code), the RawFrame
record, the instructions (one constructor per row of spec/opcode_table.json) and the requests that carry them.
-/
namespace Sys2Proof

/-- The protocol generation, `P.gen` (R16). -/
inductive Gen where
  | legacy
  | extended
deriving DecidableEq, Repr

/-- The direction of a frame, `P.dir` (R17); the two-bit code 3 is never produced. -/
inductive Dir where
  | toDevice
  | fromDevice
  | error
deriving DecidableEq, Repr

/-- Which byte of a two-byte field is awaited, `P.idx` (R21). -/
inductive ByteIndex where
  | low
  | high
deriving DecidableEq, Repr

/-- The nine phases of R14 in their code order. `sawDirection` is never held between operations (R128). -/
inductive Phase where
  | idle
  | sawStart
  | sawGenerationMarker
  | sawDirection
  | readingFlag
  | readingSize
  | readingCommand
  | readingPayload
  | readingChecksum
deriving DecidableEq, Repr

/-- The error names of R140 in their code order (1 to 7). `unregisteredCommand` is raised by no operation of
the block (R147). -/
inductive ErrorCode where
  | invalidPreamble
  | unsupportedDirectionMarker
  | sizeMismatch
  | checksumMismatch
  | truncatedFrame
  | payloadTooLarge
  | unregisteredCommand
deriving DecidableEq, Repr

/-- A RawFrame (R29): the contents of a Frame outcome and the success result of DEC. For a legacy frame
`flag` is driven 0. -/
structure RawFrame where
  gen      : Gen
  dir      : Dir
  flag     : Byte
  cmd      : Half
  size     : Half
  payload  : List Byte
  checksum : Byte
deriving DecidableEq, Repr

/-- The instructions: one constructor per row of spec/opcode_table.json, in its order. A FRAME row carries
the frame's fields in wire order; an RXBYTE row carries the byte where the row's byte class has more than one
value; an OP row carries the operands of R74. -/
inductive Instr where
  | frameLTo (size cmd : Byte) (payload : List Byte) (checksum : Byte)
  | frameLFrom (size cmd : Byte) (payload : List Byte) (checksum : Byte)
  | frameLErr (size cmd : Byte) (payload : List Byte) (checksum : Byte)
  | frameXTo (flag : Byte) (cmd size : Half) (payload : List Byte) (checksum : Byte)
  | frameXFrom (flag : Byte) (cmd size : Half) (payload : List Byte) (checksum : Byte)
  | frameXErr (flag : Byte) (cmd size : Half) (payload : List Byte) (checksum : Byte)
  | rxIdleStart
  | rxIdleSkip (b : Byte)
  | rxSawstartM
  | rxSawstartX
  | rxSawstartBad (b : Byte)
  | rxSawgenTo
  | rxSawgenFrom
  | rxSawgenErr
  | rxSawgenBad (b : Byte)
  | rxFlag (b : Byte)
  | rxSizeL (b : Byte)
  | rxSizeLOver (b : Byte)
  | rxCmdL (b : Byte)
  | rxCmdXLo (b : Byte)
  | rxCmdXHi (b : Byte)
  | rxSizeXLo (b : Byte)
  | rxSizeXHi (b : Byte)
  | rxSizeXOver (b : Byte)
  | rxPayload (b : Byte)
  | rxCsumOk (b : Byte)
  | rxCsumBad (b : Byte)
  | rst
  | push (b : Byte)
  | csumL (bytes : List Byte)
  | csumX (bytes : List Byte)
  | encLegacy (dir : Dir) (flag : Byte) (cmd : Half) (payload : List Byte)
  | encExtended (dir : Dir) (flag : Byte) (cmd : Half) (payload : List Byte)
  | dec (bytes : List Byte)
  | feed (bytes : List Byte)
deriving DecidableEq, Repr

/-- The operand fields that stand beside an operation's 3-bit select code (R74, R79). Log 2. -/
inductive Operands where
  /-- no operand: RST -/
  | none
  /-- one byte: PUSH -/
  | byte (b : Byte)
  /-- a byte sequence: CSUM.L, CSUM.X, DEC -/
  | bytes (s : List Byte)
  /-- generation and direction codes, flag, command, payload: ENC -/
  | enc (gen : BitVec 1) (dir : BitVec 2) (flag : Byte) (cmd : Half) (payload : List Byte)
deriving DecidableEq, Repr

/-- What the single driver hands the block for one step: one kind per `format` of spec/opcode_table.json
(R78). These are the words the decoder reads. Log 2. -/
inductive Request where
  /-- format OP: a select code with its operands -/
  | op (select : BitVec 3) (operands : Operands)
  /-- format PSEUDO: one chunk of the Transport, MSP's `feed(bytes)` (R76) -/
  | feed (chunk : List Byte)
  /-- format RXBYTE: one byte, whose row the parser's context selects (R133) -/
  | rx (b : Byte)
  /-- formats FRAME_L and FRAME_X: the bytes of one whole frame (R54, R55) -/
  | frame (bytes : List Byte)
deriving DecidableEq, Repr

end Sys2Proof
end

