-- ==== Sys2Proof/Machine/Operands.lean ====
section
/-!
DEFINITION. Operands: the assembly of every field form the spec gives (30_encoding R57, R58; 10_state R14,
R16, R17, R21; 60_exceptions R140): little-endian halves, zero extension, marker bytes, and the numeric codes.
The block has no flags (R27), so there is no flag computation and no Flags file.
-/
namespace Sys2Proof

/-- `u16le(lo, hi)` = lo + 256*hi (R10, R58). -/
def u16le (lo hi : Byte) : Half := hi ++ lo

/-- `lo8(v)` = v mod 256 (R10). -/
def lo8 (v : Half) : Byte := v.extractLsb' 0 8

/-- `hi8(v)` = (v div 256) mod 256 (R10). -/
def hi8 (v : Half) : Byte := v.extractLsb' 8 8

/-- `zext_16(b)` (R10): a legacy field in its 16-bit register (R58). -/
def zext16 (b : Byte) : Half := b.setWidth 16

/-- A half with bits 7:0 replaced and bits 15:8 kept (R120, R121). -/
def withLow (v : Half) (b : Byte) : Half := u16le b (hi8 v)

/-- A half with bits 15:8 replaced and bits 7:0 kept (R120, R121). -/
def withHigh (v : Half) (b : Byte) : Half := u16le (lo8 v) b

/-- The start marker `'$'` (R9, R56). -/
abbrev startMarker : Byte := 0x24

/-- The generation marker of each generation: `'M'` and `'X'` (R56). -/
def genMarker : Gen → Byte
  | .legacy => 0x4D
  | .extended => 0x58

/-- The generation a marker byte names, if any (R56, R67). -/
def genOfMarker (b : Byte) : Option Gen :=
  if b = 0x4D then some .legacy
  else if b = 0x58 then some .extended
  else none

/-- `marker(dir)`: the direction marker byte of each direction (R57, R95). -/
def dirMarker : Dir → Byte
  | .toDevice => 0x3C
  | .fromDevice => 0x3E
  | .error => 0x21

/-- The direction a marker byte names, if any; the same three values in both generations (R57, R68). -/
def dirOfMarker (b : Byte) : Option Dir :=
  if b = 0x3C then some .toDevice
  else if b = 0x3E then some .fromDevice
  else if b = 0x21 then some .error
  else none

/-- The code of `gen` (R16). -/
def genCode : Gen → BitVec 1
  | .legacy => 0
  | .extended => 1

/-- The generation of a code (R16). -/
def genOfCode (c : BitVec 1) : Gen := if c = 0 then .legacy else .extended

/-- The code of `dir` (R17). -/
def dirCode : Dir → BitVec 2
  | .toDevice => 0
  | .fromDevice => 1
  | .error => 2

/-- The direction of a code; 3 names none (R17). -/
def dirOfCode (c : BitVec 2) : Option Dir :=
  if c = 0 then some .toDevice
  else if c = 1 then some .fromDevice
  else if c = 2 then some .error
  else none

/-- The code of `idx` (R21). -/
def idxCode : ByteIndex → BitVec 1
  | .low => 0
  | .high => 1

/-- The 4-bit code of `phase` (R14). -/
def phaseCode : Phase → BitVec 4
  | .idle => 0
  | .sawStart => 1
  | .sawGenerationMarker => 2
  | .sawDirection => 3
  | .readingFlag => 4
  | .readingSize => 5
  | .readingCommand => 6
  | .readingPayload => 7
  | .readingChecksum => 8

/-- The 3-bit code of an error name; 0 stands for no error (R140). -/
def errorCodeBits : ErrorCode → BitVec 3
  | .invalidPreamble => 1
  | .unsupportedDirectionMarker => 2
  | .sizeMismatch => 3
  | .checksumMismatch => 4
  | .truncatedFrame => 5
  | .payloadTooLarge => 6
  | .unregisteredCommand => 7

end Sys2Proof
end

