-- ==== Sys2Proof/Machine/FrameFormat.lean ====
section
/-!
DEFINITION. FrameFormat: the two wire formats (30_encoding R54, R55) and the two functions of FrameCodec on byte
sequences: building a frame (41_frame_codec R95, R96) and validating one (R100).
-/
namespace Sys2Proof

/-- The bytes of a legacy frame with the given field values, right or wrong (R54). -/
def frameLBytes (dir : Dir) (size cmd : Byte) (payload : List Byte) (checksum : Byte) : List Byte :=
  [startMarker, genMarker .legacy, dirMarker dir, size, cmd] ++ payload ++ [checksum]

/-- The bytes of an extended frame with the given field values, right or wrong (R55). -/
def frameXBytes (dir : Dir) (flag : Byte) (cmd size : Half) (payload : List Byte) (checksum : Byte) : List Byte :=
  [startMarker, genMarker .extended, dirMarker dir, flag, lo8 cmd, hi8 cmd, lo8 size, hi8 size] ++ payload ++ [checksum]

/-- The covered bytes of a legacy frame: size, command, payload (R59). -/
def coveredL (size cmd : Byte) (payload : List Byte) : List Byte := [size, cmd] ++ payload

/-- The covered bytes of an extended frame: flag, command, size, payload (R59). -/
def coveredX (flag : Byte) (cmd size : Half) (payload : List Byte) : List Byte :=
  [flag, lo8 cmd, hi8 cmd, lo8 size, hi8 size] ++ payload

/-- `ENC legacy` on its domain (R95, R97). -/
def encodeLegacy (dir : Dir) (cmd : Byte) (payload : List Byte) : Except ErrorCode (List Byte) :=
  if payload.length > Config.legacyMax then .error .payloadTooLarge
  else
    let n : Byte := BitVec.ofNat 8 payload.length
    .ok (frameLBytes dir n cmd payload (xorFold (coveredL n cmd payload)))

/-- `ENC extended` (R96, R97). -/
def encodeExtended (dir : Dir) (flag : Byte) (cmd : Half) (payload : List Byte) : Except ErrorCode (List Byte) :=
  if payload.length > Config.extMax then .error .payloadTooLarge
  else
    let n : Half := BitVec.ofNat 16 payload.length
    .ok (frameXBytes dir flag cmd n payload (crc8 (coveredX flag cmd n payload)))

/-- `s[i]` of R10; every use below is guarded by a length check, so the default is never the answer. -/
def byteAt (s : List Byte) (i : Nat) : Byte := s.getD i 0

/-- `s[i..j)` of R10. -/
def slice (s : List Byte) (i j : Nat) : List Byte := (s.drop i).take (j - i)

/-- The legacy branch of DEC, from the size byte on (R100). -/
def decodeLegacy (dir : Dir) (s : List Byte) : Except ErrorCode RawFrame :=
  if s.length < 4 then .error .truncatedFrame
  else
    let size := (byteAt s 3).toNat
    if s.length < 6 + size then .error .truncatedFrame
    else if s.length > 6 + size then .error .sizeMismatch
    else if xorFold (slice s 3 (5 + size)) ≠ byteAt s (5 + size) then .error .checksumMismatch
    else .ok
      { gen := .legacy, dir := dir, flag := 0, cmd := zext16 (byteAt s 4), size := zext16 (byteAt s 3),
        payload := slice s 5 (5 + size), checksum := byteAt s (5 + size) }

/-- The extended branch of DEC, from the flag byte on (R100). -/
def decodeExtended (dir : Dir) (s : List Byte) : Except ErrorCode RawFrame :=
  if s.length < 8 then .error .truncatedFrame
  else
    let sizeField := u16le (byteAt s 6) (byteAt s 7)
    let size := sizeField.toNat
    if s.length < 9 + size then .error .truncatedFrame
    else if s.length > 9 + size then .error .sizeMismatch
    else if crc8 (slice s 3 (8 + size)) ≠ byteAt s (8 + size) then .error .checksumMismatch
    else .ok
      { gen := .extended, dir := dir, flag := byteAt s 3, cmd := u16le (byteAt s 4) (byteAt s 5), size := sizeField,
        payload := slice s 8 (8 + size), checksum := byteAt s (8 + size) }

/-- `DEC s` (R100, R101): the first failing check decides. -/
def decodeFrame (s : List Byte) : Except ErrorCode RawFrame :=
  if s.length < 1 then .error .truncatedFrame
  else if byteAt s 0 ≠ startMarker then .error .invalidPreamble
  else if s.length < 2 then .error .truncatedFrame
  else match genOfMarker (byteAt s 1) with
    | none => .error .invalidPreamble
    | some gen =>
      if s.length < 3 then .error .truncatedFrame
      else match dirOfMarker (byteAt s 2) with
        | none => .error .unsupportedDirectionMarker
        | some dir =>
          match gen with
          | .legacy => decodeLegacy dir s
          | .extended => decodeExtended dir s

/-- The covered bytes of a frame record (R59). -/
def RawFrame.covered (f : RawFrame) : List Byte :=
  match f.gen with
  | .legacy => coveredL (lo8 f.size) (lo8 f.cmd) f.payload
  | .extended => coveredX f.flag f.cmd f.size f.payload

/-- The wire bytes of a frame record (R54, R55). -/
def RawFrame.wire (f : RawFrame) : List Byte :=
  match f.gen with
  | .legacy => frameLBytes f.dir (lo8 f.size) (lo8 f.cmd) f.payload f.checksum
  | .extended => frameXBytes f.dir f.flag f.cmd f.size f.payload f.checksum

end Sys2Proof
end

