-- ==== Sys2Proof/WellFormed.lean ====
section
/-!
DEFINITION. WellFormed: the checks an instruction's operands must pass on their own, apart from the machine's state.
-/
namespace Sys2Proof

/-- A legacy frame's size field is its payload's length and its checksum the fold of its covered bytes (R29, R89). -/
def wellFormedL (size cmd : Byte) (payload : List Byte) (checksum : Byte) : Bool :=
  decide (payload.length = size.toNat) && decide (checksum = xorFold (coveredL size cmd payload))

/-- An extended frame's size field is its payload's length and its checksum the CRC of its covered bytes (R29, R89). -/
def wellFormedX (flag : Byte) (cmd size : Half) (payload : List Byte) (checksum : Byte) : Bool :=
  decide (payload.length = size.toNat) && decide (checksum = crc8 (coveredX flag cmd size payload))

/-- The well-formed instructions: FRAME rows are well-formed frames, the fallback RXBYTE rows carry a byte that no
earlier row of their context takes (R67, R68, R69), and a legacy ENC's command fits its field (R98). -/
def Instr.wellFormed : Instr → Bool
  | .frameLTo size cmd payload checksum => wellFormedL size cmd payload checksum
  | .frameLFrom size cmd payload checksum => wellFormedL size cmd payload checksum
  | .frameLErr size cmd payload checksum => wellFormedL size cmd payload checksum
  | .frameXTo flag cmd size payload checksum => wellFormedX flag cmd size payload checksum
  | .frameXFrom flag cmd size payload checksum => wellFormedX flag cmd size payload checksum
  | .frameXErr flag cmd size payload checksum => wellFormedX flag cmd size payload checksum
  | .rxIdleStart => true
  | .rxIdleSkip b => decide (b ≠ startMarker)
  | .rxSawstartM => true
  | .rxSawstartX => true
  | .rxSawstartBad b => (genOfMarker b).isNone
  | .rxSawgenTo => true
  | .rxSawgenFrom => true
  | .rxSawgenErr => true
  | .rxSawgenBad b => (dirOfMarker b).isNone
  | .rxFlag _ => true
  | .rxSizeL _ => true
  | .rxSizeLOver _ => true
  | .rxCmdL _ => true
  | .rxCmdXLo _ => true
  | .rxCmdXHi _ => true
  | .rxSizeXLo _ => true
  | .rxSizeXHi _ => true
  | .rxSizeXOver _ => true
  | .rxPayload _ => true
  | .rxCsumOk _ => true
  | .rxCsumBad _ => true
  | .rst => true
  | .push _ => true
  | .csumL _ => true
  | .csumX _ => true
  | .encLegacy _ _ cmd _ => decide (cmd.toNat ≤ 255)
  | .encExtended _ _ _ _ => true
  | .dec _ => true
  | .feed _ => true

end Sys2Proof
end

