-- ==== Sys2Proof/Decode.lean ====
section
/-!
DEFINITION. Decode: from a request to an instruction, total, rejecting by name, and the encoder back. The RXBYTE rows
are selected by the parser's context and the byte (42_stream_parser R111, R133; 30_encoding R78), the FRAME rows by
FrameCodec's own validation (R100), the OP rows by the 3-bit select code (R74).
-/
namespace Sys2Proof

/-- What of the parser's state and parameters selects the row that a pushed byte takes (R133). -/
structure RxContext where
  phase     : Phase
  gen       : Gen
  idx       : ByteIndex
  size      : Half
  rem       : Half
  acc       : Byte
  maxLegacy : Byte
  maxExt    : Half
deriving DecidableEq, Repr

/-- Why a request is no instruction. Every reason is safe: the machine stops instead of guessing. -/
inductive DecodeError where
  /-- select codes 6 and 7 (R74, 93_implementation_defined U6) -/
  | unusedSelect (select : BitVec 3)
  /-- the operand fields are not those of the selected operation (log 2) -/
  | operandShape
  /-- direction code 3 (R17) -/
  | illegalDirectionCode
  /-- ENC legacy with a command above 255 (R98, U3) -/
  | legacyCommandTooWide
  /-- the bytes of a FRAME request are not one well-formed frame; the name is DEC's (R102) -/
  | notAFrame (reason : ErrorCode)
  /-- a pushed byte in a phase that is never held (R128, U5) -/
  | unreachableContext
deriving DecidableEq, Repr

/-- The RXBYTE row a pushed byte takes (R133): the rows of one context tried in their `priority` order. -/
def selectRow (c : RxContext) (b : Byte) : Except DecodeError Instr :=
  match c.phase with
  | .idle => if b = startMarker then .ok .rxIdleStart else .ok (.rxIdleSkip b)
  | .sawStart =>
    if b = 0x4D then .ok .rxSawstartM
    else if b = 0x58 then .ok .rxSawstartX
    else .ok (.rxSawstartBad b)
  | .sawGenerationMarker =>
    if b = 0x3C then .ok .rxSawgenTo
    else if b = 0x3E then .ok .rxSawgenFrom
    else if b = 0x21 then .ok .rxSawgenErr
    else .ok (.rxSawgenBad b)
  | .sawDirection => .error .unreachableContext
  | .readingFlag =>
    match c.gen with
    | .legacy => .error .unreachableContext
    | .extended => .ok (.rxFlag b)
  | .readingSize =>
    match c.gen, c.idx with
    | .legacy, _ => if b ≤ c.maxLegacy then .ok (.rxSizeL b) else .ok (.rxSizeLOver b)
    | .extended, .low => .ok (.rxSizeXLo b)
    | .extended, .high => if withHigh c.size b ≤ c.maxExt then .ok (.rxSizeXHi b) else .ok (.rxSizeXOver b)
  | .readingCommand =>
    match c.gen, c.idx with
    | .legacy, _ => .ok (.rxCmdL b)
    | .extended, .low => .ok (.rxCmdXLo b)
    | .extended, .high => .ok (.rxCmdXHi b)
  | .readingPayload => if c.rem = 0 then .error .unreachableContext else .ok (.rxPayload b)
  | .readingChecksum => if b = c.acc then .ok (.rxCsumOk b) else .ok (.rxCsumBad b)

/-- Whether the row `row` is the one that byte `b` takes in context `c`. -/
def rowIs (c : RxContext) (b : Byte) (row : Instr) : Bool :=
  match selectRow c b with
  | .ok j => decide (j = row)
  | .error _ => false

/-- The FRAME row of a frame record (R73). -/
def frameInstr (f : RawFrame) : Instr :=
  match f.gen, f.dir with
  | .legacy, .toDevice => .frameLTo (lo8 f.size) (lo8 f.cmd) f.payload f.checksum
  | .legacy, .fromDevice => .frameLFrom (lo8 f.size) (lo8 f.cmd) f.payload f.checksum
  | .legacy, .error => .frameLErr (lo8 f.size) (lo8 f.cmd) f.payload f.checksum
  | .extended, .toDevice => .frameXTo f.flag f.cmd f.size f.payload f.checksum
  | .extended, .fromDevice => .frameXFrom f.flag f.cmd f.size f.payload f.checksum
  | .extended, .error => .frameXErr f.flag f.cmd f.size f.payload f.checksum

/-- The FRAME row whose wire bytes are `s` (R54, R55, R100). -/
def decodeFrameRow (s : List Byte) : Except DecodeError Instr :=
  match decodeFrame s with
  | .ok f => .ok (frameInstr f)
  | .error e => .error (.notAFrame e)

/-- The operands of select code 4: the generation code tells the two ENC rows apart (R74, R94, R98). -/
def decodeEnc (gen : BitVec 1) (dir : BitVec 2) (flag : Byte) (cmd : Half) (payload : List Byte) :
    Except DecodeError Instr :=
  match dirOfCode dir with
  | none => .error .illegalDirectionCode
  | some d =>
    match genOfCode gen with
    | .legacy => if cmd.toNat ≤ 255 then .ok (.encLegacy d flag cmd payload) else .error .legacyCommandTooWide
    | .extended => .ok (.encExtended d flag cmd payload)

/-- The operation of a select code with its operands (R74). -/
def decodeOp (select : BitVec 3) (x : Operands) : Except DecodeError Instr :=
  if select = 0 then
    match x with
    | .none => .ok .rst
    | _ => .error .operandShape
  else if select = 1 then
    match x with
    | .byte b => .ok (.push b)
    | _ => .error .operandShape
  else if select = 2 then
    match x with
    | .bytes s => .ok (.csumL s)
    | _ => .error .operandShape
  else if select = 3 then
    match x with
    | .bytes s => .ok (.csumX s)
    | _ => .error .operandShape
  else if select = 4 then
    match x with
    | .enc gen dir flag cmd payload => decodeEnc gen dir flag cmd payload
    | _ => .error .operandShape
  else if select = 5 then
    match x with
    | .bytes s => .ok (.dec s)
    | _ => .error .operandShape
  else .error (.unusedSelect select)

/-- The decoder: the instruction a request stands for in the parser's context. -/
def decode (c : RxContext) : Request → Except DecodeError Instr
  | .op select x => decodeOp select x
  | .feed chunk => .ok (.feed chunk)
  | .rx b => selectRow c b
  | .frame bytes => decodeFrameRow bytes

/-- The encoder: the request that carries an instruction (R54, R55, R57, R73, R74, R76, R78). -/
def encode : Instr → Request
  | .frameLTo size cmd payload checksum => .frame (frameLBytes .toDevice size cmd payload checksum)
  | .frameLFrom size cmd payload checksum => .frame (frameLBytes .fromDevice size cmd payload checksum)
  | .frameLErr size cmd payload checksum => .frame (frameLBytes .error size cmd payload checksum)
  | .frameXTo flag cmd size payload checksum => .frame (frameXBytes .toDevice flag cmd size payload checksum)
  | .frameXFrom flag cmd size payload checksum => .frame (frameXBytes .fromDevice flag cmd size payload checksum)
  | .frameXErr flag cmd size payload checksum => .frame (frameXBytes .error flag cmd size payload checksum)
  | .rxIdleStart => .rx 0x24
  | .rxIdleSkip b => .rx b
  | .rxSawstartM => .rx 0x4D
  | .rxSawstartX => .rx 0x58
  | .rxSawstartBad b => .rx b
  | .rxSawgenTo => .rx 0x3C
  | .rxSawgenFrom => .rx 0x3E
  | .rxSawgenErr => .rx 0x21
  | .rxSawgenBad b => .rx b
  | .rxFlag b => .rx b
  | .rxSizeL b => .rx b
  | .rxSizeLOver b => .rx b
  | .rxCmdL b => .rx b
  | .rxCmdXLo b => .rx b
  | .rxCmdXHi b => .rx b
  | .rxSizeXLo b => .rx b
  | .rxSizeXHi b => .rx b
  | .rxSizeXOver b => .rx b
  | .rxPayload b => .rx b
  | .rxCsumOk b => .rx b
  | .rxCsumBad b => .rx b
  | .rst => .op 0 .none
  | .push b => .op 1 (.byte b)
  | .csumL s => .op 2 (.bytes s)
  | .csumX s => .op 3 (.bytes s)
  | .encLegacy dir flag cmd payload => .op 4 (.enc (genCode .legacy) (dirCode dir) flag cmd payload)
  | .encExtended dir flag cmd payload => .op 4 (.enc (genCode .extended) (dirCode dir) flag cmd payload)
  | .dec s => .op 5 (.bytes s)
  | .feed s => .feed s

/-- The `n` bytes of a table word, first wire byte most significant (R73 "As numbers"; log 2). -/
def wordBytes : Nat → Nat → List Byte
  | 0, _ => []
  | n + 1, w => wordBytes n (w / 256) ++ [BitVec.ofNat 8 w]

/-- How many bytes the frame that begins with `s` has, a byte not given counting as 0 (R60). -/
def frameLength (s : List Byte) : Nat :=
  match genOfMarker (byteAt s 1) with
  | some .extended => 9 + (u16le (byteAt s 6) (byteAt s 7)).toNat
  | _ => 6 + (byteAt s 3).toNat

/-- `s` followed by as many zero bytes as its frame still needs. -/
def zeroPadded (s : List Byte) : List Byte := s ++ List.replicate (frameLength s - s.length) 0

/-- The operands of a select code with every operand bit 0 (log 2). -/
def zeroOperands (select : BitVec 3) : Operands :=
  if select = 0 then .none
  else if select = 1 then .byte 0
  else if select = 4 then .enc 0 0 0 0 []
  else .bytes []

/-- The phase whose RXBYTE rows name the byte in their `match` (spec/opcode_table.json); a byte that none of them
names is one of `Idle`'s skipped bytes. -/
def tablePhase (b : Byte) : Phase :=
  if b = 0x4D then .sawStart
  else if b = 0x58 then .sawStart
  else if b = 0x3C then .sawGenerationMarker
  else if b = 0x3E then .sawGenerationMarker
  else if b = 0x21 then .sawGenerationMarker
  else .idle

/-- The context in which a table word of one byte is read: its row's phase, all else as after reset. -/
def tableContext (b : Byte) : RxContext :=
  { phase := tablePhase b, gen := .legacy, idx := .low, size := 0, rem := 0, acc := 0,
    maxLegacy := Config.defaultMaxLegacy, maxExt := Config.defaultMaxExt }

/-- The request that a word of spec/opcode_table.json stands for (log 2): three bytes or more are the beginning of a
frame; one byte below 8 is a select code; any other single byte is a byte of the stream. -/
def tableRequest (nbits w : Nat) : Option Request :=
  if nbits = 8 then
    if w < 8 then some (.op (BitVec.ofNat 3 w) (zeroOperands (BitVec.ofNat 3 w)))
    else some (.rx (BitVec.ofNat 8 w))
  else if 24 ≤ nbits then some (.frame (zeroPadded (wordBytes (nbits / 8) w)))
  else none

/-- The phase a table request needs the parser to hold, where the row's selection depends on it (log 2). -/
def requestPhase : Request → Option Phase
  | .rx b => some (tablePhase b)
  | _ => none

/-- The instruction the decoder reads from a word of spec/opcode_table.json. -/
def decodeTableWord (nbits w : Nat) : Option Instr :=
  match tableRequest nbits w with
  | none => none
  | some r =>
    match decode (tableContext (BitVec.ofNat 8 w)) r with
    | .ok i => some i
    | .error _ => none

end Sys2Proof
end

