-- ==== Sys2Proof/Machine/State.lean ====
section
/-!
DEFINITION. State: everything the spec gives the machine (10_state R13 to R34), as plain data, the reasons a step can
stop, and the state after reset (R33, R166). INVENTORY.md lists every field with its rule.
-/
namespace Sys2Proof.Machine

/-- The payload buffer's contents (R24, R36): the bytes written, as cells with strictly rising addresses. An address
that is not listed has no value (log 4). -/
abbrev Memory := List Host.Cell

/-- An element of the outcome stream (R29, R30). -/
inductive StreamOutcome where
  /-- a Frame outcome: a frame whose checksum was verified -/
  | frame (f : RawFrame)
  /-- an Error outcome: the code and the stream index of the detecting byte -/
  | error (code : ErrorCode) (offset : Offset)
deriving DecidableEq, Repr

/-- What an operation returns to its caller (R74 `result`, R35; log 12). -/
inductive OpResult where
  /-- nothing: RST, and the state after reset -/
  | none
  /-- CSUM.L, CSUM.X -/
  | byte (b : Byte)
  /-- a successful ENC -/
  | bytes (s : List Byte)
  /-- a successful DEC -/
  | frame (f : RawFrame)
  /-- a failed ENC or DEC: the error name and nothing else (R153) -/
  | failure (e : ErrorCode)
  /-- PUSH, FEED and the rows they are made of: the outcomes they appended (R76, R111) -/
  | outcomes (l : List StreamOutcome)
deriving DecidableEq, Repr

/-- The static parameters of the parser instance (R8, R123; log 7). No operation writes them (R28, R171). -/
structure Params where
  maxLegacy : Byte
  maxExt    : Half
deriving DecidableEq, Repr

/-- The state of a StreamParser instance `P` (R13 to R24). -/
structure Parser where
  phase  : Phase
  offset : Offset
  gen    : Gen
  dir    : Dir
  flag   : Byte
  cmd    : Half
  size   : Half
  idx    : ByteIndex
  rem    : Half
  acc    : Byte
  pbuf   : Memory
deriving DecidableEq, Repr

/-- The machine: the parser, its parameters, its output and the host's operations that are still to run. -/
structure State where
  /-- `P` (R13) -/
  parser  : Parser
  /-- the instance's parameters (R8) -/
  params  : Params
  /-- the outcome stream since the last reset (R31) -/
  out     : List StreamOutcome
  /-- the outcome streams that an RST closed, oldest first: outcomes are never withdrawn (R167; log 6) -/
  past    : List (List StreamOutcome)
  /-- what the last operation returned (log 12) -/
  result  : OpResult
  /-- the operations the single driver has issued and the block has not yet run (R6, R7, R172; log 1) -/
  pending : List Request
deriving DecidableEq, Repr

/-- The machine's faults. The spec has none (R157): both stand for a payload-buffer access that no reachable state
makes (R38, R39), and both are safe. -/
inductive Fault where
  /-- raised by the success path of `ReadingChecksum` (RX.CSUM.OK, PUSH, FEED, the FRAME rows) when it reads a byte of
  the payload buffer that nothing has written (R36, R38; log 4): safe -/
  | pbufUnwritten
  /-- raised by an access to an index from `PBUF_CAP` on: the store of `ReadingPayload` and the read of
  `ReadingChecksum` (R24, R39; log 5): safe -/
  | pbufOutOfRange
deriving DecidableEq, Repr

/-- The machine's refusals: misuse to which the spec gives no result (R156, R157). All are safe. -/
inductive Refusal where
  /-- raised by exec for an instruction that has no meaning yet: safe -/
  | notModelled (mnemonic : String)
  /-- raised by step for a request that is no instruction (R74, U6; R98, U3; R17; R102): safe -/
  | notAnInstruction (reason : DecodeError)
  /-- raised by an RXBYTE row in a state where another row is the one selected (R133; log 9): safe -/
  | rowNotSelected
  /-- raised by PUSH, FEED and the FRAME rows in a phase that is never held (R128, U5; log 10): safe -/
  | unreachableState
  /-- raised by ENC legacy with a command above 255 (R98, U3; log 11): safe -/
  | legacyCommandTooWide
deriving DecidableEq, Repr

/-- The parser after power-on: `Idle`, offset 0 (R33, R166). The spec gives the working registers no reset value;
legacy, to-device, low and 0 are the model's (DESIGN CHOICE, log 3). -/
def Parser.reset : Parser :=
  { phase := .idle, offset := 0, gen := .legacy, dir := .toDevice, flag := 0, cmd := 0, size := 0, idx := .low,
    rem := 0, acc := 0, pbuf := [] }

/-- The default capacities (R8). -/
def Params.default : Params :=
  { maxLegacy := Config.defaultMaxLegacy, maxExt := Config.defaultMaxExt }

/-- The machine right after reset (R33, R166): an empty outcome stream and no operation issued (log 1). -/
def State.reset : State :=
  { parser := Parser.reset, params := Params.default, out := [], past := [], result := .none, pending := [] }

end Sys2Proof.Machine
end

