-- ==== Sys2Proof/Machine/Ops.lean ====
section
/-!
DEFINITION. Ops: the named operations over the payload buffer, the working registers and the outcome stream, from which
every meaning is built. `State.commit` is the common part of a PUSH (R111), `State.raise` is the error entry (R152,
R115); there is no return-from-error operation, recovery being the next `Idle` step (R154).
-/
namespace Sys2Proof.Machine

/-- The answer of a meaning. -/
abbrev Answer := Host.Outcome State Fault Refusal

/-! ### The payload buffer (R24, R36 to R39) -/

/-- `MemRead(PBUF, a, 1)` (R36): the byte last written at `a`; none if nothing was (log 4). -/
def Memory.read : Memory → Nat → Option Byte
  | [], _ => none
  | (k, v) :: m, a => if k = a then some v else Memory.read m a

/-- `MemWrite(PBUF, a, 1, v)` (R37), keeping the cells in rising order. -/
def Memory.write : Memory → Nat → Byte → Memory
  | [], a, v => [(a, v)]
  | (k, w) :: m, a, v =>
    if k = a then (k, v) :: m
    else if a < k then (a, v) :: (k, w) :: m
    else (k, w) :: Memory.write m a v

/-- The canonical form: addresses strictly rising. No cell could equal what an unlisted address reads as, since that
has no value. -/
def Memory.wf : Memory → Bool
  | [] => true
  | [_] => true
  | (k, _) :: (k', w) :: m => decide (k < k') && Memory.wf ((k', w) :: m)

/-- The bytes at `a`, `a+1`, ... `a+n-1`, if all of them were written (R38). -/
def Memory.readRange (m : Memory) : Nat → Nat → Option (List Byte)
  | _, 0 => some []
  | a, n + 1 =>
    match Memory.read m a, Memory.readRange m (a + 1) n with
    | some v, some vs => some (v :: vs)
    | _, _ => none

/-- The bytes `vs` written at `a`, `a+1`, ... in order (R37). -/
def Memory.writeRange : Memory → Nat → List Byte → Memory
  | m, _, [] => m
  | m, a, v :: vs => Memory.writeRange (Memory.write m a v) (a + 1) vs

/-- `PBUF_CAP` (R8): the larger of the two capacities. -/
def Params.pbufCap (k : Params) : Nat := max k.maxLegacy.toNat k.maxExt.toNat

/-! ### The parser's registers: what accepting each byte writes (42_stream_parser sections 3, 5, 6) -/

/-- What selects the row of the next byte (R133). -/
abbrev State.rxContext (s : State) : RxContext :=
  { phase := s.parser.phase, gen := s.parser.gen, idx := s.parser.idx, size := s.parser.size, rem := s.parser.rem,
    acc := s.parser.acc, maxLegacy := s.params.maxLegacy, maxExt := s.params.maxExt }

/-- The running checksum updated by one covered byte (R23). -/
def Parser.accumulate (p : Parser) (b : Byte) : Byte := checksumStep p.gen p.acc b

/-- The phase after the last header byte: a frame with no payload goes straight to its checksum (R122). -/
def phaseAfterHeader (size : Half) : Phase := if size = 0 then .readingChecksum else .readingPayload

/-- The phase after an accepted direction marker, by generation (R114; `SawDirection` is passed through here). -/
def phaseAfterDirection : Gen → Phase
  | .legacy => .readingSize
  | .extended => .readingFlag

/-- An accepted generation marker (R113). -/
def Parser.takeGeneration (p : Parser) (g : Gen) : Parser := { p with gen := g, phase := .sawGenerationMarker }

/-- An accepted direction marker (R114). -/
def Parser.takeDirection (p : Parser) (d : Dir) : Parser :=
  { p with dir := d, acc := 0x00, idx := .low, phase := phaseAfterDirection p.gen }

/-- The flag byte (R117). -/
def Parser.takeFlag (p : Parser) (b : Byte) : Parser :=
  { p with flag := b, acc := crc8Step p.acc b, idx := .low, phase := .readingCommand }

/-- The legacy size byte (R118): what is written whether or not the size is within capacity. -/
def Parser.takeLegacySize (p : Parser) (b : Byte) : Parser :=
  { p with size := zext16 b, acc := p.acc ^^^ b, phase := .readingCommand }

/-- The legacy command byte (R119, R122). -/
def Parser.takeLegacyCommand (p : Parser) (b : Byte) : Parser :=
  { p with cmd := zext16 b, acc := p.acc ^^^ b, rem := p.size, phase := phaseAfterHeader p.size }

/-- The low command byte (R120). -/
def Parser.takeCommandLow (p : Parser) (b : Byte) : Parser :=
  { p with cmd := withLow p.cmd b, acc := crc8Step p.acc b, idx := .high, phase := .readingCommand }

/-- The high command byte (R120). -/
def Parser.takeCommandHigh (p : Parser) (b : Byte) : Parser :=
  { p with cmd := withHigh p.cmd b, acc := crc8Step p.acc b, idx := .low, phase := .readingSize }

/-- The low size byte (R121). -/
def Parser.takeSizeLow (p : Parser) (b : Byte) : Parser :=
  { p with size := withLow p.size b, acc := crc8Step p.acc b, idx := .high, phase := .readingSize }

/-- The high size byte (R121): what is written whether or not the completed size is within capacity. -/
def Parser.takeSizeHigh (p : Parser) (b : Byte) : Parser :=
  { p with size := withHigh p.size b, acc := crc8Step p.acc b, idx := .low }

/-- The countdown set up and the phase after a completed extended size (R121, R122). -/
def Parser.startPayload (p : Parser) : Parser := { p with rem := p.size, phase := phaseAfterHeader p.size }

/-- The payload-buffer index of the next payload byte: `P.size - P.rem` in 16 bits (R37, R87). -/
def Parser.payloadIndex (p : Parser) : Nat := (p.size - p.rem).toNat

/-- A payload byte (R124). -/
def Parser.takePayload (p : Parser) (b : Byte) : Parser :=
  { p with
    pbuf := Memory.write p.pbuf p.payloadIndex b
    acc := p.accumulate b
    rem := p.rem - 1
    phase := if p.rem - 1 = 0 then .readingChecksum else .readingPayload }

/-- The RawFrame of the frame in progress, given its payload and the received checksum byte (R125, R29). -/
def Parser.rawFrame (p : Parser) (payload : List Byte) (checksum : Byte) : RawFrame :=
  { gen := p.gen
    dir := p.dir
    flag := match p.gen with
      | .legacy => 0
      | .extended => p.flag
    cmd := p.cmd
    size := p.size
    payload := payload
    checksum := checksum }

/-! ### A byte's step -/

/-- The common part of a PUSH (R111): the registers `p`, the offset advanced by one (wrapping), the outcomes
appended. -/
def State.commit (s : State) (p : Parser) (outs : List StreamOutcome) : Answer :=
  .next { s with
    parser := { p with offset := s.parser.offset + 1 }
    out := s.out ++ outs
    result := .outcomes outs }

/-- A byte that is taken without an outcome. -/
def State.accept (s : State) (p : Parser) : Answer := s.commit p []

/-- The error entry (R152, R115, `raise` of R10): append Error with the code and the offset of this byte, phase to
`Idle`; the byte is consumed and no other register is cleared. `p` holds what the step wrote before it raised. -/
def State.raise (s : State) (p : Parser) (e : ErrorCode) : Answer :=
  s.commit { p with phase := .idle } [.error e s.parser.offset]

/-- The store of a payload byte (R124, R37), which stops outside the buffer (R24; log 5). -/
def State.storePayload (s : State) (b : Byte) : Answer :=
  if s.parser.payloadIndex < s.params.pbufCap then s.accept (s.parser.takePayload b)
  else .fault .pbufOutOfRange

/-- The Frame outcome of a verified checksum (R125): the payload is read from the buffer by value (R38), and stops
outside the buffer or at a byte nothing has written (logs 4, 5). -/
def State.deliver (s : State) (checksum : Byte) : Answer :=
  if s.parser.size.toNat ≤ s.params.pbufCap then
    match Memory.readRange s.parser.pbuf 0 s.parser.size.toNat with
    | some payload => s.commit { s.parser with phase := .idle } [.frame (s.parser.rawFrame payload checksum)]
    | none => .fault .pbufUnwritten
  else .fault .pbufOutOfRange

/-- An RXBYTE row acts only where it is the row selected for its byte (R133; log 9). -/
def State.onRow (s : State) (b : Byte) (row : Instr) (answer : Answer) : Answer :=
  if rowIs s.rxContext b row then answer else .refused .rowNotSelected

/-! ### The operations without parser state, and reset -/

/-- The result of an operation that touches nothing else (R25, R93). -/
def State.answer (s : State) (r : OpResult) : Answer := .next { s with result := r }

/-- The result of a codec operation: its value, or the error name alone (R153). -/
def encResult : Except ErrorCode (List Byte) → OpResult
  | .ok w => .bytes w
  | .error e => .failure e

/-- The result of DEC: the record, or the error name alone (R100, R153). -/
def decResult : Except ErrorCode RawFrame → OpResult
  | .ok f => .frame f
  | .error e => .failure e

/-- The effect of RST on the parser (R167): phase and offset; all other registers and PBUF are left as they are. -/
def Parser.restart (p : Parser) : Parser := { p with phase := .idle, offset := 0 }

/-- The effect of RST (R167, R33): the epoch's outcome stream is closed and kept, and a new one starts empty (log 6). -/
def State.restart (s : State) : State :=
  { s with parser := s.parser.restart, out := [], past := s.past ++ [s.out], result := .none }

/-! ### Requests -/

/-- The state with a request placed where the next step takes it, and the parser in the phase that a byte request's
row needs (log 2). -/
def State.present (s : State) (r : Request) : State :=
  { s with
    parser := match requestPhase r with
      | some ph => { s.parser with phase := ph }
      | none => s.parser
    pending := r :: s.pending }

end Sys2Proof.Machine
end

