-- ==== Sys2Proof/Machine/Codec.lean ====
section
/-!
DEFINITION. Codec: the operations of ChecksumEngine and FrameCodec (40_checksum R81, R84; 41_frame_codec R95 to R100).
They read and write nothing of the parser (R25, R93); their answer is the result alone.
-/
namespace Sys2Proof.Machine

/-- CSUM.L (R81). -/
def execCsumL (bytes : List Byte) (s : State) : Answer := s.answer (.byte (xorFold bytes))

/-- CSUM.X (R84). -/
def execCsumX (bytes : List Byte) (s : State) : Answer := s.answer (.byte (crc8 bytes))

/-- ENC legacy (R95, R97): the flag operand is ignored (R94), and a command above 255 is refused (R98; log 11). -/
def execEncLegacy (dir : Dir) (_flag : Byte) (cmd : Half) (payload : List Byte) (s : State) : Answer :=
  if cmd.toNat ≤ 255 then s.answer (encResult (encodeLegacy dir (lo8 cmd) payload))
  else .refused .legacyCommandTooWide

/-- ENC extended (R96, R97). -/
def execEncExtended (dir : Dir) (flag : Byte) (cmd : Half) (payload : List Byte) (s : State) : Answer :=
  s.answer (encResult (encodeExtended dir flag cmd payload))

/-- DEC (R100). -/
def execDec (bytes : List Byte) (s : State) : Answer := s.answer (decResult (decodeFrame bytes))

end Sys2Proof.Machine
end

