-- ==== Sys2Proof/Machine/StreamParser.lean ====
section
/-!
DEFINITION. StreamParser: PUSH by phase (42_stream_parser R111 to R126), FEED (30_encoding R76) and RST
(70_reset_and_hazards R167). `pushByte` is the transition function; PUSH, FEED and the FRAME rows are built from it.
-/
namespace Sys2Proof.Machine

/-- PUSH in phase `Idle` (R112). -/
def pushIdle (b : Byte) (s : State) : Answer :=
  if b = startMarker then s.accept { s.parser with phase := .sawStart }
  else s.accept { s.parser with phase := .idle }

/-- PUSH in phase `SawStart` (R113). -/
def pushSawStart (b : Byte) (s : State) : Answer :=
  match genOfMarker b with
  | some g => s.accept (s.parser.takeGeneration g)
  | none => s.raise s.parser .invalidPreamble

/-- PUSH in phase `SawGenerationMarker` (R114). -/
def pushSawGenerationMarker (b : Byte) (s : State) : Answer :=
  match dirOfMarker b with
  | some d => s.accept (s.parser.takeDirection d)
  | none => s.raise s.parser .unsupportedDirectionMarker

/-- PUSH in phase `ReadingFlag` (R117), never held with a legacy generation (R128). -/
def pushReadingFlag (b : Byte) (s : State) : Answer :=
  match s.parser.gen with
  | .legacy => .refused .unreachableState
  | .extended => s.accept (s.parser.takeFlag b)

/-- PUSH in phase `ReadingSize` of a legacy frame (R118). -/
def pushReadingSizeLegacy (b : Byte) (s : State) : Answer :=
  if s.params.maxLegacy < b then s.raise (s.parser.takeLegacySize b) .sizeMismatch
  else s.accept (s.parser.takeLegacySize b)

/-- PUSH in phase `ReadingSize` of an extended frame (R121). -/
def pushReadingSizeExtended (b : Byte) (s : State) : Answer :=
  match s.parser.idx with
  | .low => s.accept (s.parser.takeSizeLow b)
  | .high =>
    if s.params.maxExt < withHigh s.parser.size b then s.raise (s.parser.takeSizeHigh b) .sizeMismatch
    else s.accept (s.parser.takeSizeHigh b).startPayload

/-- PUSH in phase `ReadingSize` (R111). -/
def pushReadingSize (b : Byte) (s : State) : Answer :=
  match s.parser.gen with
  | .legacy => pushReadingSizeLegacy b s
  | .extended => pushReadingSizeExtended b s

/-- PUSH in phase `ReadingCommand` (R119, R120). -/
def pushReadingCommand (b : Byte) (s : State) : Answer :=
  match s.parser.gen with
  | .legacy => s.accept (s.parser.takeLegacyCommand b)
  | .extended =>
    match s.parser.idx with
    | .low => s.accept (s.parser.takeCommandLow b)
    | .high => s.accept (s.parser.takeCommandHigh b)

/-- PUSH in phase `ReadingPayload` (R124), never held with nothing left to come (R128). -/
def pushReadingPayload (b : Byte) (s : State) : Answer :=
  if s.parser.rem = 0 then .refused .unreachableState else s.storePayload b

/-- PUSH in phase `ReadingChecksum` (R125, R126). -/
def pushReadingChecksum (b : Byte) (s : State) : Answer :=
  if b = s.parser.acc then s.deliver b else s.raise s.parser .checksumMismatch

/-- One byte's step (R111): exactly one rule applies, chosen by the phase from before the step. -/
def pushByte (b : Byte) (s : State) : Answer :=
  match s.parser.phase with
  | .idle => pushIdle b s
  | .sawStart => pushSawStart b s
  | .sawGenerationMarker => pushSawGenerationMarker b s
  | .sawDirection => .refused .unreachableState
  | .readingFlag => pushReadingFlag b s
  | .readingSize => pushReadingSize b s
  | .readingCommand => pushReadingCommand b s
  | .readingPayload => pushReadingPayload b s
  | .readingChecksum => pushReadingChecksum b s

/-- The bytes of a sequence pushed one after another (R76, R130). -/
def pushAll : List Byte → State → Answer
  | [], s => .next s
  | b :: bs, s =>
    match pushByte b s with
    | .next t => pushAll bs t
    | .fault f => .fault f
    | .refused r => .refused r

/-- A chunk delivered whole (R76, R130): its bytes pushed in order, and the outcomes they appended as the result. -/
def feedBytes (bytes : List Byte) (s : State) : Answer :=
  match pushAll bytes s with
  | .next t => .next { t with result := .outcomes (t.out.drop s.out.length) }
  | .fault f => .fault f
  | .refused r => .refused r

/-- RST (R167). -/
def execRst (s : State) : Answer := .next s.restart

/-- PUSH (R111). -/
def execPush (b : Byte) (s : State) : Answer := pushByte b s

/-- FEED (R76). -/
def execFeed (bytes : List Byte) (s : State) : Answer := feedBytes bytes s

end Sys2Proof.Machine
end

