-- ==== Sys2Proof/Machine/FrameRows.lean ====
section
/-!
DEFINITION. FrameRows: the six FRAME_L and FRAME_X rows of spec/opcode_table.json: the parser receives the bytes of one
frame of the row's generation and direction, exactly as FEED of those bytes (30_encoding R54, R55, R73; 42_stream_parser
R125, R138; log 13). Nothing about the frame is assumed here: a wrong size or checksum field goes the parser's way.
-/
namespace Sys2Proof.Machine

/-- FRAME.L.TO (R54). -/
def execFrameLTo (size cmd : Byte) (payload : List Byte) (checksum : Byte) (s : State) : Answer :=
  feedBytes (frameLBytes .toDevice size cmd payload checksum) s

/-- FRAME.L.FROM (R54). -/
def execFrameLFrom (size cmd : Byte) (payload : List Byte) (checksum : Byte) (s : State) : Answer :=
  feedBytes (frameLBytes .fromDevice size cmd payload checksum) s

/-- FRAME.L.ERR (R54). -/
def execFrameLErr (size cmd : Byte) (payload : List Byte) (checksum : Byte) (s : State) : Answer :=
  feedBytes (frameLBytes .error size cmd payload checksum) s

/-- FRAME.X.TO (R55). -/
def execFrameXTo (flag : Byte) (cmd size : Half) (payload : List Byte) (checksum : Byte) (s : State) : Answer :=
  feedBytes (frameXBytes .toDevice flag cmd size payload checksum) s

/-- FRAME.X.FROM (R55). -/
def execFrameXFrom (flag : Byte) (cmd size : Half) (payload : List Byte) (checksum : Byte) (s : State) : Answer :=
  feedBytes (frameXBytes .fromDevice flag cmd size payload checksum) s

/-- FRAME.X.ERR (R55). -/
def execFrameXErr (flag : Byte) (cmd size : Half) (payload : List Byte) (checksum : Byte) (s : State) : Answer :=
  feedBytes (frameXBytes .error flag cmd size payload checksum) s

end Sys2Proof.Machine
end

