-- ==== Sys2Proof/Machine/RxRows.lean ====
section
/-!
DEFINITION. RxRows: the 21 RXBYTE rows of spec/opcode_table.json, each one transition of PUSH (42_stream_parser R133,
30_encoding R78). A row acts where it is the row selected for its byte, and is refused elsewhere (log 9).
-/
namespace Sys2Proof.Machine

/-- RX.IDLE.START (R112). -/
def execRxIdleStart (s : State) : Answer :=
  s.onRow 0x24 .rxIdleStart (s.accept { s.parser with phase := .sawStart })

/-- RX.IDLE.SKIP (R112, R66). -/
def execRxIdleSkip (b : Byte) (s : State) : Answer :=
  s.onRow b (.rxIdleSkip b) (s.accept { s.parser with phase := .idle })

/-- RX.SAWSTART.M (R113). -/
def execRxSawstartM (s : State) : Answer :=
  s.onRow 0x4D .rxSawstartM (s.accept (s.parser.takeGeneration .legacy))

/-- RX.SAWSTART.X (R113). -/
def execRxSawstartX (s : State) : Answer :=
  s.onRow 0x58 .rxSawstartX (s.accept (s.parser.takeGeneration .extended))

/-- RX.SAWSTART.BAD (R113, R67). -/
def execRxSawstartBad (b : Byte) (s : State) : Answer :=
  s.onRow b (.rxSawstartBad b) (s.raise s.parser .invalidPreamble)

/-- RX.SAWGEN.TO (R114). -/
def execRxSawgenTo (s : State) : Answer :=
  s.onRow 0x3C .rxSawgenTo (s.accept (s.parser.takeDirection .toDevice))

/-- RX.SAWGEN.FROM (R114). -/
def execRxSawgenFrom (s : State) : Answer :=
  s.onRow 0x3E .rxSawgenFrom (s.accept (s.parser.takeDirection .fromDevice))

/-- RX.SAWGEN.ERR (R114). -/
def execRxSawgenErr (s : State) : Answer :=
  s.onRow 0x21 .rxSawgenErr (s.accept (s.parser.takeDirection .error))

/-- RX.SAWGEN.BAD (R114, R68). -/
def execRxSawgenBad (b : Byte) (s : State) : Answer :=
  s.onRow b (.rxSawgenBad b) (s.raise s.parser .unsupportedDirectionMarker)

/-- RX.FLAG (R117). -/
def execRxFlag (b : Byte) (s : State) : Answer :=
  s.onRow b (.rxFlag b) (s.accept (s.parser.takeFlag b))

/-- RX.SIZE.L (R118): a size within capacity. -/
def execRxSizeL (b : Byte) (s : State) : Answer :=
  s.onRow b (.rxSizeL b) (s.accept (s.parser.takeLegacySize b))

/-- RX.SIZE.L.OVER (R118): a size above capacity. -/
def execRxSizeLOver (b : Byte) (s : State) : Answer :=
  s.onRow b (.rxSizeLOver b) (s.raise (s.parser.takeLegacySize b) .sizeMismatch)

/-- RX.CMD.L (R119, R122). -/
def execRxCmdL (b : Byte) (s : State) : Answer :=
  s.onRow b (.rxCmdL b) (s.accept (s.parser.takeLegacyCommand b))

/-- RX.CMD.X.LO (R120). -/
def execRxCmdXLo (b : Byte) (s : State) : Answer :=
  s.onRow b (.rxCmdXLo b) (s.accept (s.parser.takeCommandLow b))

/-- RX.CMD.X.HI (R120). -/
def execRxCmdXHi (b : Byte) (s : State) : Answer :=
  s.onRow b (.rxCmdXHi b) (s.accept (s.parser.takeCommandHigh b))

/-- RX.SIZE.X.LO (R121). -/
def execRxSizeXLo (b : Byte) (s : State) : Answer :=
  s.onRow b (.rxSizeXLo b) (s.accept (s.parser.takeSizeLow b))

/-- RX.SIZE.X.HI (R121, R122): a completed size within capacity. -/
def execRxSizeXHi (b : Byte) (s : State) : Answer :=
  s.onRow b (.rxSizeXHi b) (s.accept (s.parser.takeSizeHigh b).startPayload)

/-- RX.SIZE.X.OVER (R121): a completed size above capacity. -/
def execRxSizeXOver (b : Byte) (s : State) : Answer :=
  s.onRow b (.rxSizeXOver b) (s.raise (s.parser.takeSizeHigh b) .sizeMismatch)

/-- RX.PAYLOAD (R124). -/
def execRxPayload (b : Byte) (s : State) : Answer :=
  s.onRow b (.rxPayload b) (s.storePayload b)

/-- RX.CSUM.OK (R125). -/
def execRxCsumOk (b : Byte) (s : State) : Answer :=
  s.onRow b (.rxCsumOk b) (s.deliver b)

/-- RX.CSUM.BAD (R126). -/
def execRxCsumBad (b : Byte) (s : State) : Answer :=
  s.onRow b (.rxCsumBad b) (s.raise s.parser .checksumMismatch)

end Sys2Proof.Machine
end

