-- ==== Sys2Proof/Machine/Dispatch.lean ====
section
/-!
DEFINITION. Dispatch: one arm per row of spec/opcode_table.json, in its order.
-/
namespace Sys2Proof.Machine

def exec (i : Instr) (s : State) : Host.Outcome State Fault Refusal :=
  match i with
  | .frameLTo size cmd payload checksum => Sys2Proof.Machine.execFrameLTo size cmd payload checksum s
  | .frameLFrom size cmd payload checksum => Sys2Proof.Machine.execFrameLFrom size cmd payload checksum s
  | .frameLErr size cmd payload checksum => Sys2Proof.Machine.execFrameLErr size cmd payload checksum s
  | .frameXTo flag cmd size payload checksum => Sys2Proof.Machine.execFrameXTo flag cmd size payload checksum s
  | .frameXFrom flag cmd size payload checksum => Sys2Proof.Machine.execFrameXFrom flag cmd size payload checksum s
  | .frameXErr flag cmd size payload checksum => Sys2Proof.Machine.execFrameXErr flag cmd size payload checksum s
  | .rxIdleStart => Sys2Proof.Machine.execRxIdleStart s
  | .rxIdleSkip b => Sys2Proof.Machine.execRxIdleSkip b s
  | .rxSawstartM => Sys2Proof.Machine.execRxSawstartM s
  | .rxSawstartX => Sys2Proof.Machine.execRxSawstartX s
  | .rxSawstartBad b => Sys2Proof.Machine.execRxSawstartBad b s
  | .rxSawgenTo => Sys2Proof.Machine.execRxSawgenTo s
  | .rxSawgenFrom => Sys2Proof.Machine.execRxSawgenFrom s
  | .rxSawgenErr => Sys2Proof.Machine.execRxSawgenErr s
  | .rxSawgenBad b => Sys2Proof.Machine.execRxSawgenBad b s
  | .rxFlag b => Sys2Proof.Machine.execRxFlag b s
  | .rxSizeL b => Sys2Proof.Machine.execRxSizeL b s
  | .rxSizeLOver b => Sys2Proof.Machine.execRxSizeLOver b s
  | .rxCmdL b => Sys2Proof.Machine.execRxCmdL b s
  | .rxCmdXLo b => Sys2Proof.Machine.execRxCmdXLo b s
  | .rxCmdXHi b => Sys2Proof.Machine.execRxCmdXHi b s
  | .rxSizeXLo b => Sys2Proof.Machine.execRxSizeXLo b s
  | .rxSizeXHi b => Sys2Proof.Machine.execRxSizeXHi b s
  | .rxSizeXOver b => Sys2Proof.Machine.execRxSizeXOver b s
  | .rxPayload b => Sys2Proof.Machine.execRxPayload b s
  | .rxCsumOk b => Sys2Proof.Machine.execRxCsumOk b s
  | .rxCsumBad b => Sys2Proof.Machine.execRxCsumBad b s
  | .rst => Sys2Proof.Machine.execRst s
  | .push b => Sys2Proof.Machine.execPush b s
  | .csumL bytes => Sys2Proof.Machine.execCsumL bytes s
  | .csumX bytes => Sys2Proof.Machine.execCsumX bytes s
  | .encLegacy dir flag cmd payload => Sys2Proof.Machine.execEncLegacy dir flag cmd payload s
  | .encExtended dir flag cmd payload => Sys2Proof.Machine.execEncExtended dir flag cmd payload s
  | .dec bytes => Sys2Proof.Machine.execDec bytes s
  | .feed bytes => Sys2Proof.Machine.execFeed bytes s

end Sys2Proof.Machine
end

