-- ==== Sys2Proof/Machine/Step.lean ====
section
/-!
DEFINITION. Step: the machine takes the oldest request its driver has issued, decodes it in the parser's context and runs
it as one atomic operation (00_scope R6, R7; 20_memory R44, R47; 70_reset_and_hazards R181). With no request pending
nothing happens (R182; log 1).
-/
namespace Sys2Proof.Machine

/-- One step. -/
def step (s : State) : Host.Outcome State Fault Refusal :=
  match s.pending with
  | [] => .next s
  | r :: rest =>
    match decode s.rxContext r with
    | .ok i => exec i { s with pending := rest }
    | .error e => .refused (.notAnInstruction e)

/-- The state with the instruction of a table word placed as the next request (log 2). -/
def State.withFetchWord (s : State) (nbits w : Nat) : State :=
  match tableRequest nbits w with
  | some r => s.present r
  | none => s

end Sys2Proof.Machine
end

