-- ==== Sys2Proof/Safety.lean ====
section
/-!
DEFINITION. Safety: what claims about whole runs are stated in: a verified frame (R29), the parser's invariant over its
phases (R22, R26, R128, R135), the machine's invariant, the registers that are live in each phase (R26), and runs of
chunks and operations.
-/
namespace Sys2Proof

/-- "a RawFrame is never constructed without a verified checksum" (R29): the size is the payload's length, the checksum
is that of the covered bytes, and a legacy record's fields fit their bytes, with the flag driven 0. -/
def RawFrame.Verified (f : RawFrame) : Prop :=
  f.payload.length = f.size.toNat ∧ f.checksum = checksumOf f.gen f.covered ∧
    (f.gen = .legacy → f.flag = 0 ∧ f.cmd.toNat ≤ 255 ∧ f.size.toNat ≤ 255)

namespace Machine

/-- The frame's declared size is within the parser's capacity (R123). -/
def Params.Fits (k : Params) (gen : Gen) (size : Half) : Prop :=
  match gen with
  | .legacy => size.toNat ≤ k.maxLegacy.toNat
  | .extended => size.toNat ≤ k.maxExt.toNat

/-- The header bytes that the checksum covers, from the registers (R59). -/
def Parser.coveredHeader (p : Parser) : List Byte :=
  match p.gen with
  | .legacy => coveredL (lo8 p.size) (lo8 p.cmd) []
  | .extended => coveredX p.flag p.cmd p.size []

/-- The first `n` payload bytes stand in the buffer, and the running checksum is that of the header and them (R135). -/
def Parser.HoldsPayload (p : Parser) (n : Nat) : Prop :=
  ∃ bs, Memory.readRange p.pbuf 0 n = some bs ∧ p.acc = checksumOf p.gen (p.coveredHeader ++ bs)

/-- A legacy command fits its byte (R19). -/
def Parser.CommandFits (p : Parser) : Prop := p.gen = .legacy → p.cmd.toNat ≤ 255

/-- What holds of the registers in each phase that is held between operations (R22, R26, R128, R135). -/
def Parser.PhaseOk (k : Params) (p : Parser) : Prop :=
  match p.phase, p.gen with
  | .idle, _ => True
  | .sawStart, _ => True
  | .sawGenerationMarker, _ => True
  | .sawDirection, _ => False
  | .readingFlag, .legacy => False
  | .readingFlag, .extended => p.acc = crc8 [] ∧ p.idx = .low
  | .readingSize, .legacy => p.acc = xorFold []
  | .readingSize, .extended =>
    match p.idx with
    | .low => p.acc = crc8 [p.flag, lo8 p.cmd, hi8 p.cmd]
    | .high => p.acc = crc8 [p.flag, lo8 p.cmd, hi8 p.cmd, lo8 p.size]
  | .readingCommand, .legacy => k.Fits .legacy p.size ∧ p.acc = xorFold [lo8 p.size]
  | .readingCommand, .extended =>
    match p.idx with
    | .low => p.acc = crc8 [p.flag]
    | .high => p.acc = crc8 [p.flag, lo8 p.cmd]
  | .readingPayload, g =>
    k.Fits g p.size ∧ p.CommandFits ∧ 1 ≤ p.rem.toNat ∧ p.rem.toNat ≤ p.size.toNat ∧
      p.HoldsPayload (p.size.toNat - p.rem.toNat)
  | .readingChecksum, g => k.Fits g p.size ∧ p.CommandFits ∧ p.rem = 0 ∧ p.HoldsPayload p.size.toNat

/-- The payload buffer is canonical and lies within `PBUF_CAP` (R24, R39). -/
def Memory.Within (m : Memory) (cap : Nat) : Prop := Memory.wf m = true ∧ ∀ c ∈ m, c.1 < cap

/-- An outcome that is a Frame carries a verified frame (R29). -/
def StreamOutcome.Sound : StreamOutcome → Prop
  | .frame f => f.Verified
  | .error _ _ => True

/-- The machine's invariant: the parser is in a state some run can leave it in, its buffer is within bounds, and every
Frame outcome ever emitted is verified. -/
def State.Inv (s : State) : Prop :=
  s.parser.PhaseOk s.params ∧ Memory.Within s.parser.pbuf s.params.pbufCap ∧
    (∀ o ∈ s.out, o.Sound) ∧ (∀ l ∈ s.past, ∀ o ∈ l, StreamOutcome.Sound o)

/-- The two parsers agree on everything that a later step can read (R26, R32): the phase, the offset, and the registers
and buffer bytes that are live in the phase. -/
def Parser.SameLive (p q : Parser) : Prop :=
  p.phase = q.phase ∧ p.offset = q.offset ∧
    match p.phase with
    | .idle => True
    | .sawStart => True
    | .sawGenerationMarker => p.gen = q.gen
    | .sawDirection => True
    | .readingFlag => p.gen = q.gen ∧ p.dir = q.dir ∧ p.acc = q.acc
    | .readingCommand =>
      p.gen = q.gen ∧ p.dir = q.dir ∧ p.acc = q.acc ∧
        match p.gen with
        | .legacy => p.size = q.size
        | .extended => p.flag = q.flag ∧ p.idx = q.idx ∧ (p.idx = .high → lo8 p.cmd = lo8 q.cmd)
    | .readingSize =>
      p.gen = q.gen ∧ p.dir = q.dir ∧ p.acc = q.acc ∧
        match p.gen with
        | .legacy => True
        | .extended =>
          p.flag = q.flag ∧ p.cmd = q.cmd ∧ p.idx = q.idx ∧ (p.idx = .high → lo8 p.size = lo8 q.size)
    | .readingPayload =>
      p.gen = q.gen ∧ p.dir = q.dir ∧ p.acc = q.acc ∧ (p.gen = .extended → p.flag = q.flag) ∧
        p.cmd = q.cmd ∧ p.size = q.size ∧ p.rem = q.rem ∧
        ∀ a < p.size.toNat - p.rem.toNat, Memory.read p.pbuf a = Memory.read q.pbuf a
    | .readingChecksum =>
      p.gen = q.gen ∧ p.dir = q.dir ∧ p.acc = q.acc ∧ (p.gen = .extended → p.flag = q.flag) ∧
        p.cmd = q.cmd ∧ p.size = q.size ∧
        ∀ a < p.size.toNat, Memory.read p.pbuf a = Memory.read q.pbuf a

/-- A phase, generation, byte index and countdown that a parser can hold between operations (R14, R128). -/
def heldContext (c : RxContext) : Bool :=
  match c.phase with
  | .sawDirection => false
  | .readingFlag => decide (c.gen = .extended)
  | .readingPayload => decide (c.rem ≠ 0)
  | _ => true

/-- The chunks fed one after another, each by its own FEED (R134). -/
def feedChunks : List (List Byte) → State → Answer
  | [], s => .next s
  | c :: cs, s =>
    match exec (.feed c) s with
    | .next t => feedChunks cs t
    | .fault f => .fault f
    | .refused r => .refused r

/-- The state with the returned value forgotten: what a later operation can depend on. -/
def State.forgetResult (s : State) : State := { s with result := .none }

/-- An answer with the returned value forgotten. -/
def forgetAnswer : Answer → Answer
  | .next t => .next t.forgetResult
  | .fault f => .fault f
  | .refused r => .refused r

/-- The state after one byte's step that leaves the registers `p` and appends `outs`: the offset advanced by one, and
nothing else of the machine changed (R111). -/
def State.afterByte (s : State) (p : Parser) (outs : List StreamOutcome) : State :=
  { s with
    parser := { p with offset := s.parser.offset + 1 }
    out := s.out ++ outs
    result := .outcomes outs }

/-- The state with another returned value and nothing else changed (R25). -/
def State.withResult (s : State) (r : OpResult) : State := { s with result := r }

end Machine
end Sys2Proof
end

