-- ==== Sys2Proof/Certificates/Slice0/Obligations.lean ====
section
/-!
DEFINITION. Obligations: the statements for the provers, one per entry of OBLIGATIONS.json. Each docstring names the rules
or sections of spec/ it formalises, and the log entry where a clause rests on the model's own choice.
-/
open Sys2Proof Sys2Proof.Machine

/-! ### Decoding and the step -/

/-- A step runs the oldest pending request's instruction on the state without that request, and nothing around it; a
request that is no instruction is refused by its decoder's reason; with nothing pending nothing happens. The pending list
is the model's (log 1); the operations are atomic steps (R6, R44). -/
def Obligations.StepRunsTheDecodedRequest : Prop :=
  ∀ s : State,
    (s.pending = [] → step s = .next s) ∧
    ∀ r rest, s.pending = r :: rest →
      (∀ i, decode s.rxContext r = .ok i → step s = exec i { s with pending := rest }) ∧
      (∀ e, decode s.rxContext r = .error e → step s = .refused (.notAnInstruction e))

/-- Words written out from the spec's encodings decode to their instructions: a legacy and an extended frame (R54, R55,
R73; vectors E1 and S2.a), select codes (R74), and bytes in their contexts (R133). The operand layout is log 2's. -/
def Obligations.WrittenOutWordsDecode : Prop :=
  ∀ c : RxContext,
    decode c (.frame [0x24, 0x4D, 0x3C, 0x03, 0x64, 0x01, 0x02, 0x03, 0x67]) =
      .ok (.frameLTo 3 100 [1, 2, 3] 0x67) ∧
    decode c (.frame [0x24, 0x58, 0x3E, 0xA5, 0x34, 0x12, 0x02, 0x00, 0xDE, 0xAD, 0x19]) =
      .ok (.frameXFrom 0xA5 0x1234 2 [0xDE, 0xAD] 0x19) ∧
    decode c (.op 0b000 .none) = .ok .rst ∧
    decode c (.op 0b001 (.byte 0x24)) = .ok (.push 0x24) ∧
    decode c (.op 0b100 (.enc 0 2 0 255 [0xFF])) = .ok (.encLegacy .error 0 255 [0xFF]) ∧
    decode c (.op 0b100 (.enc 1 1 0xA5 0x1234 [])) = .ok (.encExtended .fromDevice 0xA5 0x1234 []) ∧
    decode { c with phase := .idle } (.rx 0x24) = .ok .rxIdleStart ∧
    decode { c with phase := .sawStart } (.rx 0x24) = .ok (.rxSawstartBad 0x24) ∧
    decode { c with phase := .sawGenerationMarker } (.rx 0x21) = .ok .rxSawgenErr

/-- Decode and encode agree on the FRAME rows: every well-formed frame instruction is read back from its wire bytes, with
every field at every value (R54, R55, R57, R58, R59). -/
def Obligations.FrameRowsRoundTrip : Prop :=
  ∀ (c : RxContext) (i : Instr) (w : List Byte),
    i.wellFormed = true → encode i = .frame w → decode c (.frame w) = .ok i

/-- Decode and encode agree on the OP rows and FEED (R74, R76; operand layout: log 2). -/
def Obligations.OperationsRoundTrip : Prop :=
  ∀ (c : RxContext) (i : Instr), i.wellFormed = true →
    (∀ select x, encode i = .op select x → decode c (.op select x) = .ok i) ∧
    (∀ chunk, encode i = .feed chunk → decode c (.feed chunk) = .ok i)

/-- Every request has at most one meaning: what decodes is well-formed, and its encoding is the request itself, for all
four kinds of row (R78; request kinds: log 2). -/
def Obligations.DecodedRequestsReencode : Prop :=
  ∀ (c : RxContext) (r : Request) (i : Instr),
    decode c r = .ok i → i.wellFormed = true ∧ encode i = r

/-- The RXBYTE rows are a complete decode table (R133, R128): in every context that can be held each byte selects a row,
and in no other context does any byte. -/
def Obligations.HeldContextsSelectOneRow : Prop :=
  ∀ (c : RxContext) (b : Byte),
    (heldContext c = true → ∃ i, decode c (.rx b) = .ok i) ∧
    (heldContext c = false → decode c (.rx b) = .error .unreachableContext)

/-- Select codes 6 and 7 are no operation, whatever stands beside them (R74, U6). -/
def Obligations.UnusedSelectsAreRefused : Prop :=
  ∀ (s : State) (select : BitVec 3) (x : Operands) (rest : List Request),
    6 ≤ select.toNat → s.pending = .op select x :: rest →
      step s = .refused (.notAnInstruction (.unusedSelect select))

/-! ### PUSH and the rows of its decode table -/

/-- PUSH runs exactly the row that the decode table selects for its byte (R111, R133, R78). -/
def Obligations.PushRunsTheSelectedRow : Prop :=
  ∀ (s : State) (b : Byte) (i : Instr),
    decode s.rxContext (.rx b) = .ok i → exec (.push b) s = exec i s

/-- Every byte is consumed: PUSH completes in every state of the invariant, advances the offset by one, appends at most
one outcome and returns it (R129, R132, R133, R15). -/
def Obligations.PushConsumesEveryByte : Prop :=
  ∀ (s : State) (b : Byte), s.Inv →
    ∃ (p : Parser) (outs : List StreamOutcome),
      exec (.push b) s = .next (s.afterByte p outs) ∧ outs.length ≤ 1

/-- What PUSH leaves unchanged when it completes, register by register and by phase, and every byte of the payload
buffer but the one `ReadingPayload` stores (R16 to R24, R111 to R126). -/
def Obligations.PushFrame : Prop :=
  ∀ (s t : State) (b : Byte), exec (.push b) s = .next t →
    t.params = s.params ∧ t.past = s.past ∧ t.pending = s.pending ∧
    t.parser.offset = s.parser.offset + 1 ∧
    (s.parser.phase ≠ .sawStart → t.parser.gen = s.parser.gen) ∧
    (s.parser.phase ≠ .sawGenerationMarker → t.parser.dir = s.parser.dir) ∧
    (s.parser.phase ≠ .readingFlag → t.parser.flag = s.parser.flag) ∧
    (s.parser.phase ≠ .readingCommand → t.parser.cmd = s.parser.cmd) ∧
    (s.parser.phase ≠ .readingSize → t.parser.size = s.parser.size) ∧
    (s.parser.phase ∉ [Phase.sawGenerationMarker, .readingFlag, .readingSize, .readingCommand] →
      t.parser.idx = s.parser.idx) ∧
    (s.parser.phase ∉ [Phase.readingSize, .readingCommand, .readingPayload] → t.parser.rem = s.parser.rem) ∧
    (s.parser.phase ∉ [Phase.sawGenerationMarker, .readingFlag, .readingSize, .readingCommand, .readingPayload] →
      t.parser.acc = s.parser.acc) ∧
    ∀ a : Nat, ¬(s.parser.phase = .readingPayload ∧ a = (s.parser.size - s.parser.rem).toNat) →
      Memory.read t.parser.pbuf a = Memory.read s.parser.pbuf a

/-- PUSH in a phase that is never held is refused and has no meaning (R128, U5; log 10). -/
def Obligations.UnreachablePhasesRefusePush : Prop :=
  ∀ (s : State) (b : Byte), heldContext s.rxContext = false → exec (.push b) s = .refused .unreachableState

/-- An RXBYTE row is refused wherever another row is the one its byte selects (log 9: exactly one rule applies, R133). -/
def Obligations.UnselectedRowsAreRefused : Prop :=
  ∀ (s : State) (i : Instr) (b : Byte), encode i = .rx b → decode s.rxContext (.rx b) ≠ .ok i →
    exec i s = .refused .rowNotSelected

/-- R112: in `Idle` the start marker moves the parser to `SawStart` and every other byte is skipped without report; no
other register is touched. For PUSH and for the rows RX.IDLE.START and RX.IDLE.SKIP. -/
def Obligations.IdleScansForStartMarker : Prop :=
  ∀ s : State, s.parser.phase = .idle →
    (exec (.push 0x24) s = .next (s.afterByte { s.parser with phase := .sawStart } []) ∧
      exec .rxIdleStart s = .next (s.afterByte { s.parser with phase := .sawStart } [])) ∧
    ∀ b : Byte, b ≠ 0x24 →
      exec (.push b) s = .next (s.afterByte { s.parser with phase := .idle } []) ∧
      exec (.rxIdleSkip b) s = .next (s.afterByte { s.parser with phase := .idle } [])

/-- R113: in `SawStart` the two generation markers set `gen`, and each other value, 0x24 included, raises
`InvalidPreamble` at its own offset. For PUSH and for RX.SAWSTART.M, .X and .BAD. -/
def Obligations.SawStartReadsGeneration : Prop :=
  ∀ s : State, s.parser.phase = .sawStart →
    (exec (.push 0x4D) s =
        .next (s.afterByte { s.parser with gen := .legacy, phase := .sawGenerationMarker } []) ∧
      exec .rxSawstartM s =
        .next (s.afterByte { s.parser with gen := .legacy, phase := .sawGenerationMarker } [])) ∧
    (exec (.push 0x58) s =
        .next (s.afterByte { s.parser with gen := .extended, phase := .sawGenerationMarker } []) ∧
      exec .rxSawstartX s =
        .next (s.afterByte { s.parser with gen := .extended, phase := .sawGenerationMarker } [])) ∧
    ∀ b : Byte, b ≠ 0x4D → b ≠ 0x58 →
      exec (.push b) s =
        .next (s.afterByte { s.parser with phase := .idle } [.error .invalidPreamble s.parser.offset]) ∧
      exec (.rxSawstartBad b) s =
        .next (s.afterByte { s.parser with phase := .idle } [.error .invalidPreamble s.parser.offset])

/-- R114: in `SawGenerationMarker` the three direction markers set `dir`, clear `acc` and `idx` and dispatch on the
generation; each other value raises `UnsupportedDirectionMarker`. For PUSH and for RX.SAWGEN.TO, .FROM, .ERR, .BAD. -/
def Obligations.SawGenerationMarkerReadsDirection : Prop :=
  ∀ s : State, s.parser.phase = .sawGenerationMarker →
    let next : Phase := if s.parser.gen = .legacy then .readingSize else .readingFlag
    let accepted (d : Dir) : State := s.afterByte { s.parser with dir := d, acc := 0, idx := .low, phase := next } []
    (exec (.push 0x3C) s = .next (accepted .toDevice) ∧ exec .rxSawgenTo s = .next (accepted .toDevice)) ∧
    (exec (.push 0x3E) s = .next (accepted .fromDevice) ∧ exec .rxSawgenFrom s = .next (accepted .fromDevice)) ∧
    (exec (.push 0x21) s = .next (accepted .error) ∧ exec .rxSawgenErr s = .next (accepted .error)) ∧
    ∀ b : Byte, b ≠ 0x3C → b ≠ 0x3E → b ≠ 0x21 →
      exec (.push b) s = .next
        (s.afterByte { s.parser with phase := .idle } [.error .unsupportedDirectionMarker s.parser.offset]) ∧
      exec (.rxSawgenBad b) s = .next
        (s.afterByte { s.parser with phase := .idle } [.error .unsupportedDirectionMarker s.parser.offset])

/-- R117: the flag byte of an extended frame. For PUSH and for RX.FLAG. -/
def Obligations.FlagByteIsTaken : Prop :=
  ∀ (s : State) (b : Byte), s.parser.phase = .readingFlag → s.parser.gen = .extended →
    let t := s.afterByte
      { s.parser with flag := b, acc := crc8Step s.parser.acc b, idx := .low, phase := .readingCommand } []
    exec (.push b) s = .next t ∧ exec (.rxFlag b) s = .next t

/-- R118: the legacy size byte is written and folded in; above `MAX_PAYLOAD_LEGACY` it raises `SizeMismatch`. For PUSH and
for RX.SIZE.L and RX.SIZE.L.OVER. -/
def Obligations.LegacySizeIsTakenOrOverCapacity : Prop :=
  ∀ (s : State) (b : Byte), s.parser.phase = .readingSize → s.parser.gen = .legacy →
    let p := { s.parser with size := b.setWidth 16, acc := s.parser.acc ^^^ b }
    (b.toNat ≤ s.params.maxLegacy.toNat →
      exec (.push b) s = .next (s.afterByte { p with phase := .readingCommand } []) ∧
      exec (.rxSizeL b) s = .next (s.afterByte { p with phase := .readingCommand } [])) ∧
    (s.params.maxLegacy.toNat < b.toNat →
      exec (.push b) s = .next (s.afterByte { p with phase := .idle } [.error .sizeMismatch s.parser.offset]) ∧
      exec (.rxSizeLOver b) s =
        .next (s.afterByte { p with phase := .idle } [.error .sizeMismatch s.parser.offset]))

/-- R119: the legacy command byte; the countdown starts at the size, and a size of 0 goes straight to the checksum. For
PUSH and for RX.CMD.L. -/
def Obligations.LegacyCommandIsTaken : Prop :=
  ∀ (s : State) (b : Byte), s.parser.phase = .readingCommand → s.parser.gen = .legacy →
    let t := s.afterByte
      { s.parser with
        cmd := b.setWidth 16, acc := s.parser.acc ^^^ b, rem := s.parser.size,
        phase := if s.parser.size = 0 then .readingChecksum else .readingPayload } []
    exec (.push b) s = .next t ∧ exec (.rxCmdL b) s = .next t

/-- R120: the two command bytes of an extended frame, low byte first. For PUSH and for RX.CMD.X.LO and RX.CMD.X.HI. The
high byte of the register is kept by the low byte's step and the low byte by the high byte's. -/
def Obligations.ExtendedCommandIsTaken : Prop :=
  ∀ (s : State) (b : Byte), s.parser.phase = .readingCommand → s.parser.gen = .extended →
    let acc := crc8Step s.parser.acc b
    (s.parser.idx = .low →
      let t := s.afterByte
        { s.parser with cmd := s.parser.cmd.extractLsb' 8 8 ++ b, acc := acc, idx := .high } []
      exec (.push b) s = .next t ∧ exec (.rxCmdXLo b) s = .next t) ∧
    (s.parser.idx = .high →
      let t := s.afterByte
        { s.parser with
          cmd := b ++ s.parser.cmd.extractLsb' 0 8, acc := acc, idx := .low, phase := .readingSize } []
      exec (.push b) s = .next t ∧ exec (.rxCmdXHi b) s = .next t)

/-- R121: the two size bytes of an extended frame, low byte first; the completed size is checked against
`MAX_PAYLOAD_EXT` on the second byte. For PUSH and for RX.SIZE.X.LO, RX.SIZE.X.HI and RX.SIZE.X.OVER. -/
def Obligations.ExtendedSizeIsTakenOrOverCapacity : Prop :=
  ∀ (s : State) (b : Byte), s.parser.phase = .readingSize → s.parser.gen = .extended →
    let acc := crc8Step s.parser.acc b
    (s.parser.idx = .low →
      let t := s.afterByte
        { s.parser with size := s.parser.size.extractLsb' 8 8 ++ b, acc := acc, idx := .high } []
      exec (.push b) s = .next t ∧ exec (.rxSizeXLo b) s = .next t) ∧
    (s.parser.idx = .high →
      let sz : Half := b ++ s.parser.size.extractLsb' 0 8
      let p := { s.parser with size := sz, acc := acc, idx := .low }
      (sz.toNat ≤ s.params.maxExt.toNat →
        let t := s.afterByte
          { p with rem := sz, phase := if sz = 0 then .readingChecksum else .readingPayload } []
        exec (.push b) s = .next t ∧ exec (.rxSizeXHi b) s = .next t) ∧
      (s.params.maxExt.toNat < sz.toNat →
        let t := s.afterByte { p with phase := .idle } [.error .sizeMismatch s.parser.offset]
        exec (.push b) s = .next t ∧ exec (.rxSizeXOver b) s = .next t))

/-- R124: a payload byte is stored at index `size - rem`, folded into the checksum of the generation, and counted down;
the last one leads to `ReadingChecksum`. The index lies in the buffer by R39, here a hypothesis on the state (log 5). For
PUSH and for RX.PAYLOAD. -/
def Obligations.PayloadByteIsStored : Prop :=
  ∀ (s : State) (b : Byte), s.parser.phase = .readingPayload → s.parser.rem ≠ 0 →
    (s.parser.size - s.parser.rem).toNat < s.params.pbufCap →
    ∃ m : Memory,
      (let t := s.afterByte
        { s.parser with
          pbuf := m
          acc := match s.parser.gen with
            | .legacy => s.parser.acc ^^^ b
            | .extended => crc8Step s.parser.acc b
          rem := s.parser.rem - 1
          phase := if s.parser.rem = 1 then .readingChecksum else .readingPayload } []
      exec (.push b) s = .next t ∧ exec (.rxPayload b) s = .next t) ∧
      Memory.read m (s.parser.size - s.parser.rem).toNat = some b ∧
      ∀ a : Nat, a ≠ (s.parser.size - s.parser.rem).toNat → Memory.read m a = Memory.read s.parser.pbuf a

/-- R125: in `ReadingChecksum` the byte equal to `acc` emits the Frame with the payload read from the buffer, and returns
to `Idle`. That the payload's bytes were written is R38's, here a hypothesis on the state (logs 4, 5). For PUSH and for
RX.CSUM.OK. -/
def Obligations.MatchingChecksumEmitsFrame : Prop :=
  ∀ (s : State) (payload : List Byte), s.parser.phase = .readingChecksum →
    payload.length = s.parser.size.toNat → s.parser.size.toNat ≤ s.params.pbufCap →
    (∀ a, a < payload.length → Memory.read s.parser.pbuf a = payload[a]?) →
    let f : RawFrame :=
      { gen := s.parser.gen, dir := s.parser.dir,
        flag := if s.parser.gen = .extended then s.parser.flag else 0,
        cmd := s.parser.cmd, size := s.parser.size, payload := payload, checksum := s.parser.acc }
    let t := s.afterByte { s.parser with phase := .idle } [.frame f]
    exec (.push s.parser.acc) s = .next t ∧ exec (.rxCsumOk s.parser.acc) s = .next t

/-- R126: in `ReadingChecksum` any other byte raises `ChecksumMismatch` at its own offset and returns to `Idle`. For PUSH
and for RX.CSUM.BAD. -/
def Obligations.WrongChecksumRaisesMismatch : Prop :=
  ∀ (s : State) (b : Byte), s.parser.phase = .readingChecksum → b ≠ s.parser.acc →
    let t := s.afterByte { s.parser with phase := .idle } [.error .checksumMismatch s.parser.offset]
    exec (.push b) s = .next t ∧ exec (.rxCsumBad b) s = .next t

/-- The error entry, over all states (R152, R115, R149): an Error outcome carries the offset of the byte that raised it
and one of four codes, the parser is in `Idle`, the byte is consumed, and nothing is cleared: only a `SizeMismatch` step
writes other registers, and those are `size`, `acc` and `idx`. -/
def Obligations.ErrorEntryIsPrecise : Prop :=
  ∀ (s t : State) (b : Byte) (e : ErrorCode) (o : Offset),
    exec (.push b) s = .next t → t.out = s.out ++ [.error e o] →
      o = s.parser.offset ∧
      ((e ∈ [ErrorCode.invalidPreamble, .unsupportedDirectionMarker, .checksumMismatch] ∧
          t.parser = { s.parser with phase := .idle, offset := s.parser.offset + 1 }) ∨
        (e = .sizeMismatch ∧ ∃ size acc idx,
          t.parser = { s.parser with
            size := size, acc := acc, idx := idx, phase := .idle, offset := s.parser.offset + 1 }))

/-- At the default capacities the parser never raises `SizeMismatch` (R143, R123, R64). -/
def Obligations.DefaultCapacityNeverOverflows : Prop :=
  ∀ (s t : State) (b : Byte) (o : Offset), s.params = Params.default →
    exec (.push b) s = .next t → t.out ≠ s.out ++ [.error .sizeMismatch o]

/-! ### FEED -/

/-- FEED completes in every state of the invariant (R130, R132): its outcomes are appended and returned, at most one for
each byte, and the offset counts every byte. -/
def Obligations.FeedConsumesEveryByte : Prop :=
  ∀ (s : State) (bytes : List Byte), s.Inv →
    ∃ (t : State) (outs : List StreamOutcome),
      exec (.feed bytes) s = .next t ∧ t.out = s.out ++ outs ∧ t.result = .outcomes outs ∧
      outs.length ≤ bytes.length ∧ t.parser.offset = s.parser.offset + BitVec.ofNat 64 bytes.length ∧
      t.params = s.params ∧ t.past = s.past ∧ t.pending = s.pending

/-- FEED of one byte is PUSH of it, and FEED of more is the PUSH of the first followed by FEED of the rest, but for the
returned value (R76). -/
def Obligations.FeedIsPushesInOrder : Prop :=
  ∀ (s : State) (b : Byte) (bytes : List Byte),
    exec (.feed []) s = .next (s.withResult (.outcomes [])) ∧
    (∀ t, exec (.push b) s = .next t →
      exec (.feed [b]) s = .next t ∧
      forgetAnswer (exec (.feed (b :: bytes)) s) = forgetAnswer (exec (.feed bytes) t)) ∧
    (∀ r, exec (.push b) s = .refused r → exec (.feed (b :: bytes)) s = .refused r) ∧
    (∀ r, exec (.push b) s = .fault r → exec (.feed (b :: bytes)) s = .fault r)

/-- Chunking invariance (R134): from every state, feeding the chunks one after another ends as feeding their concatenation
at once, outcomes, offsets and state alike; only the value the last call returns differs. -/
def Obligations.ChunkingInvariance : Prop :=
  ∀ (s : State) (chunks : List (List Byte)),
    forgetAnswer (feedChunks chunks s) = forgetAnswer (exec (.feed chunks.flatten) s)

/-- From `Idle`, bytes without a start marker change nothing but the offset, and report nothing (R112, R66, R175). -/
def Obligations.SilentSkippingInIdle : Prop :=
  ∀ (s : State) (bytes : List Byte), s.parser.phase = .idle → (0x24 : Byte) ∉ bytes →
    exec (.feed bytes) s = .next
      { s with
        parser := { s.parser with offset := s.parser.offset + BitVec.ofNat 64 bytes.length }
        result := .outcomes [] }

/-! ### Whole frames through the parser -/

/-- A well-formed legacy frame received in `Idle`, within capacity, yields its Frame outcome (R138, R125) and leaves the
registers and the buffer as its header and payload say; the flag register and every later buffer byte are untouched. For
FRAME.L.TO, FRAME.L.FROM and FRAME.L.ERR. -/
def Obligations.LegacyFrameRowsDeliver : Prop :=
  ∀ (s : State) (size cmd : Byte) (payload : List Byte) (checksum : Byte),
    s.parser.phase = .idle → payload.length = size.toNat → size.toNat ≤ s.params.maxLegacy.toNat →
    checksum = xorFold ([size, cmd] ++ payload) →
    ∃ m : Memory,
      (∀ a, Memory.read m a = if a < payload.length then payload[a]? else Memory.read s.parser.pbuf a) ∧
      (let f (d : Dir) : RawFrame :=
        { gen := .legacy, dir := d, flag := 0, cmd := cmd.setWidth 16, size := size.setWidth 16,
          payload := payload, checksum := checksum }
      let t (d : Dir) : State :=
        { s with
          parser :=
            { phase := .idle, offset := s.parser.offset + BitVec.ofNat 64 (6 + payload.length), gen := .legacy,
              dir := d, flag := s.parser.flag, cmd := cmd.setWidth 16, size := size.setWidth 16, idx := .low,
              rem := 0, acc := checksum, pbuf := m }
          out := s.out ++ [.frame (f d)]
          result := .outcomes [.frame (f d)] }
      exec (.frameLTo size cmd payload checksum) s = .next (t .toDevice) ∧
      exec (.frameLFrom size cmd payload checksum) s = .next (t .fromDevice) ∧
      exec (.frameLErr size cmd payload checksum) s = .next (t .error))

/-- A well-formed extended frame received in `Idle`, within capacity, yields its Frame outcome (R138, R125) and leaves the
registers and the buffer as its header and payload say. For FRAME.X.TO, FRAME.X.FROM and FRAME.X.ERR. -/
def Obligations.ExtendedFrameRowsDeliver : Prop :=
  ∀ (s : State) (flag : Byte) (cmd size : Half) (payload : List Byte) (checksum : Byte),
    s.parser.phase = .idle → payload.length = size.toNat → size.toNat ≤ s.params.maxExt.toNat →
    checksum = crc8 (coveredX flag cmd size payload) →
    ∃ m : Memory,
      (∀ a, Memory.read m a = if a < payload.length then payload[a]? else Memory.read s.parser.pbuf a) ∧
      (let f (d : Dir) : RawFrame :=
        { gen := .extended, dir := d, flag := flag, cmd := cmd, size := size, payload := payload,
          checksum := checksum }
      let t (d : Dir) : State :=
        { s with
          parser :=
            { phase := .idle, offset := s.parser.offset + BitVec.ofNat 64 (9 + payload.length), gen := .extended,
              dir := d, flag := flag, cmd := cmd, size := size, idx := .low, rem := 0, acc := checksum, pbuf := m }
          out := s.out ++ [.frame (f d)]
          result := .outcomes [.frame (f d)] }
      exec (.frameXTo flag cmd size payload checksum) s = .next (t .toDevice) ∧
      exec (.frameXFrom flag cmd size payload checksum) s = .next (t .fromDevice) ∧
      exec (.frameXErr flag cmd size payload checksum) s = .next (t .error))

/-- A FRAME row is FEED of its frame's wire bytes in every state, whatever its fields hold (R54, R55, R73; log 13). -/
def Obligations.FrameRowsAreFedBytes : Prop :=
  ∀ (s : State) (i : Instr) (w : List Byte), encode i = .frame w → exec i s = exec (.feed w) s

/-- Valid frames fed back to back from `Idle` yield exactly their Frame outcomes in order, in any mixture of the two
generations, and end in `Idle` (R138, R127). -/
def Obligations.ValidFrameSequencesAreDelivered : Prop :=
  ∀ (s : State) (frames : List RawFrame), s.parser.phase = .idle →
    (∀ f ∈ frames, f.Verified ∧ s.params.Fits f.gen f.size) →
    ∃ t : State,
      exec (.feed (frames.flatMap RawFrame.wire)) s = .next t ∧
      t.out = s.out ++ frames.map StreamOutcome.frame ∧ t.parser.phase = .idle ∧ t.params = s.params

/-- Agreement of DEC with the parser (R105), for a sequence that begins with the start marker, from a parser just after
RST at the default capacities: the six results of DEC against the outcomes of FEED. The sequence is shorter than 2^64
bytes, so that offsets do not wrap (log 8). -/
def Obligations.DecAgreesWithParser : Prop :=
  ∀ (s : State) (rest : List Byte), s.Inv → s.parser.phase = .idle → s.parser.offset = 0 → s.out = [] →
    s.params = Params.default → (0x24 :: rest : List Byte).length < 2 ^ 64 →
    let w : List Byte := 0x24 :: rest
    ∃ t : State, exec (.feed w) s = .next t ∧
      (∀ f, decodeFrame w = .ok f ↔
        t.out = [.frame f] ∧ ∃ u, exec (.feed w.dropLast) s = .next u ∧ u.out = []) ∧
      (decodeFrame w = .error .checksumMismatch ↔
        t.out = [.error .checksumMismatch (BitVec.ofNat 64 (w.length - 1))]) ∧
      (decodeFrame w = .error .invalidPreamble ↔ t.out.head? = some (.error .invalidPreamble 1)) ∧
      (decodeFrame w = .error .unsupportedDirectionMarker ↔
        t.out.head? = some (.error .unsupportedDirectionMarker 2)) ∧
      (decodeFrame w = .error .truncatedFrame ↔ t.out = [] ∧ t.parser.phase ≠ .idle) ∧
      (decodeFrame w = .error .sizeMismatch ↔
        ∃ k u, k < w.length ∧ exec (.feed (w.take k)) s = .next u ∧
          ((∃ f, u.out = [.frame f]) ∨ u.out = [.error .checksumMismatch (BitVec.ofNat 64 (k - 1))]))

/-- Resynchronisation under its conditions (R136): a corrupted frame `c` followed by a valid frame `v` from `Idle` yields
one error and then `v`'s Frame when (a) `c` is a frame whose checksum does not match, of either generation and within
capacity, or (b) `c` has an illegal generation or direction marker and no later start marker; and when (c) `c` has no start
marker at all, `v`'s Frame alone. -/
def Obligations.ResynchronisesAfterCorruption : Prop :=
  ∀ (s : State) (v : RawFrame), s.parser.phase = .idle → v.Verified → s.params.Fits v.gen v.size →
    let yields (c : List Byte) (outs : List StreamOutcome) : Prop :=
      ∃ t : State, exec (.feed (c ++ v.wire)) s = .next t ∧ t.out = s.out ++ outs ∧ t.parser.phase = .idle
    (∀ dir size cmd payload k, payload.length = size.toNat → size.toNat ≤ s.params.maxLegacy.toNat →
      k ≠ xorFold (coveredL size cmd payload) →
      yields (frameLBytes dir size cmd payload k)
        [.error .checksumMismatch (s.parser.offset + BitVec.ofNat 64 (5 + payload.length)), .frame v]) ∧
    (∀ dir flag cmd size payload k, payload.length = size.toNat → size.toNat ≤ s.params.maxExt.toNat →
      k ≠ crc8 (coveredX flag cmd size payload) →
      yields (frameXBytes dir flag cmd size payload k)
        [.error .checksumMismatch (s.parser.offset + BitVec.ofNat 64 (8 + payload.length)), .frame v]) ∧
    (∀ g rest, g ≠ 0x4D → g ≠ 0x58 → (0x24 : Byte) ∉ rest →
      yields (0x24 :: g :: rest) [.error .invalidPreamble (s.parser.offset + 1), .frame v]) ∧
    (∀ g d rest, d ≠ 0x3C → d ≠ 0x3E → d ≠ 0x21 → (0x24 : Byte) ∉ rest →
      yields (0x24 :: genMarker g :: d :: rest)
        [.error .unsupportedDirectionMarker (s.parser.offset + 2), .frame v]) ∧
    (∀ c, (0x24 : Byte) ∉ c → yields c [.frame v])

/-- A start marker at a violating position is consumed (R173): a stray 0x24 right before a frame raises `InvalidPreamble`
on the frame's own start marker, and the frame is lost when it holds no other 0x24. -/
def Obligations.StrayStartMarkerLosesFrame : Prop :=
  ∀ (s : State) (v : RawFrame), s.parser.phase = .idle → (0x24 : Byte) ∉ v.wire.tail →
    ∃ t : State, exec (.feed (0x24 :: v.wire)) s = .next t ∧
      t.out = s.out ++ [.error .invalidPreamble (s.parser.offset + 1)] ∧ t.parser.phase = .idle

/-! ### ChecksumEngine and FrameCodec -/

/-- CSUM.L returns the exclusive-or of all bytes, starting at 0, and changes nothing else (R81, R80). -/
def Obligations.CsumLReturnsXorFold : Prop :=
  ∀ (s : State) (bytes : List Byte),
    exec (.csumL bytes) s = .next (s.withResult (.byte (bytes.foldr (fun b a => b ^^^ a) 0)))

/-- CSUM.X returns the CRC register after all bytes, starting at 0, and changes nothing else (R84, R80); the update of
the register by a byte is R83's algorithm, which the spec takes from general knowledge (G1; log 14). -/
def Obligations.CsumXReturnsCrc : Prop :=
  ∀ (s : State) (bytes : List Byte),
    exec (.csumX bytes) s = .next (s.withResult (.byte (bytes.foldl crc8Step 0)))

/-- Fold law and residue of `xor_fold` (R82). -/
def Obligations.XorFoldLaws : Prop :=
  ∀ s t : List Byte,
    xorFold (s ++ t) = xorFold s ^^^ xorFold t ∧ xorFold (s ++ [xorFold s]) = 0

/-- Fold law, residue, linearity and blindness to leading zero bytes of `crc8` (R84, R85). -/
def Obligations.CrcLaws : Prop :=
  ∀ s t : List Byte,
    crc8 (s ++ t) = t.foldl crc8Step (crc8 s) ∧ crc8 (s ++ [crc8 s]) = 0 ∧ crc8 (0 :: s) = crc8 s ∧
    (s.length = t.length → crc8 (List.zipWith (fun a b => a ^^^ b) s t) = crc8 s ^^^ crc8 t)

/-- The table form of the CRC update (R86), for every register value and every byte. -/
def Obligations.CrcStepEqualsTable : Prop := ∀ c b : Byte, crc8Step c b = crc8StepByTable c b

/-- Single-bit sensitivity of both checksums (R88): flipping bit `k` of one byte changes the fold in exactly that bit, and
changes the CRC. -/
def Obligations.SingleBitFlipsAreDetected : Prop :=
  ∀ (s t : List Byte) (b : Byte) (k : Nat), k < 8 →
    let flipped := s ++ (b ^^^ (1 <<< k)) :: t
    xorFold flipped = xorFold (s ++ b :: t) ^^^ (1 <<< k) ∧ xorFold flipped ≠ xorFold (s ++ b :: t) ∧
    crc8 flipped ≠ crc8 (s ++ b :: t)

/-- R95: the result of ENC legacy on its domain: the frame's bytes, or `PayloadTooLarge` above 255 payload bytes; the flag
operand is ignored and nothing else changes. -/
def Obligations.EncLegacyReturnsFrame : Prop :=
  ∀ (s : State) (dir : Dir) (flag : Byte) (cmd : Half) (payload : List Byte), cmd.toNat ≤ 255 →
    let n : Byte := BitVec.ofNat 8 payload.length
    let body : List Byte := [n, BitVec.ofNat 8 cmd.toNat] ++ payload
    (payload.length ≤ 255 →
      exec (.encLegacy dir flag cmd payload) s = .next (s.withResult
        (.bytes ([0x24, 0x4D, dirMarker dir] ++ body ++ [xorFold body])))) ∧
    (255 < payload.length →
      exec (.encLegacy dir flag cmd payload) s = .next (s.withResult (.failure .payloadTooLarge)))

/-- R96: the result of ENC extended: the frame's bytes, or `PayloadTooLarge` above 65535 payload bytes; nothing else
changes. -/
def Obligations.EncExtendedReturnsFrame : Prop :=
  ∀ (s : State) (dir : Dir) (flag : Byte) (cmd : Half) (payload : List Byte),
    let n := payload.length
    let body : List Byte :=
      [flag, BitVec.ofNat 8 cmd.toNat, BitVec.ofNat 8 (cmd.toNat / 256), BitVec.ofNat 8 n, BitVec.ofNat 8 (n / 256)] ++
        payload
    (n ≤ 65535 →
      exec (.encExtended dir flag cmd payload) s = .next (s.withResult
        (.bytes ([0x24, 0x58, dirMarker dir] ++ body ++ [crc8 body])))) ∧
    (65535 < n →
      exec (.encExtended dir flag cmd payload) s = .next (s.withResult (.failure .payloadTooLarge)))

/-- R98: ENC legacy with a command above 255 has no result: it is refused, not truncated. -/
def Obligations.EncLegacyWideCommandIsRefused : Prop :=
  ∀ (s : State) (dir : Dir) (flag : Byte) (cmd : Half) (payload : List Byte), 255 < cmd.toNat →
    exec (.encLegacy dir flag cmd payload) s = .refused .legacyCommandTooWide

/-- R102: DEC completes on every byte sequence and changes nothing but the result, and each of its results occurs exactly
when its cause holds. A success is a verified record whose wire bytes are the operand. -/
def Obligations.DecResultsHaveTheirCauses : Prop :=
  ∀ (s : State) (w : List Byte), ∃ r : OpResult, exec (.dec w) s = .next (s.withResult r) ∧
    (r = .failure .truncatedFrame ↔
      w = [] ∨ w = [0x24] ∨ (∃ g, w = [0x24, genMarker g]) ∨
      ∃ d, w = [0x24, 0x4D, dirMarker d] ∨
        (∃ size rest, w = 0x24 :: 0x4D :: dirMarker d :: size :: rest ∧ w.length < 6 + size.toNat) ∨
        (∃ rest, w = 0x24 :: 0x58 :: dirMarker d :: rest ∧ w.length < 8) ∨
        (∃ flag c0 c1 z0 z1 rest, w = 0x24 :: 0x58 :: dirMarker d :: flag :: c0 :: c1 :: z0 :: z1 :: rest ∧
          w.length < 9 + (u16le z0 z1).toNat)) ∧
    (r = .failure .invalidPreamble ↔
      (∃ a rest, w = a :: rest ∧ a ≠ 0x24) ∨ (∃ g rest, w = 0x24 :: g :: rest ∧ g ≠ 0x4D ∧ g ≠ 0x58)) ∧
    (r = .failure .unsupportedDirectionMarker ↔
      ∃ g d rest, w = 0x24 :: genMarker g :: d :: rest ∧ d ≠ 0x3C ∧ d ≠ 0x3E ∧ d ≠ 0x21) ∧
    (r = .failure .sizeMismatch ↔
      ∃ d, (∃ size rest, w = 0x24 :: 0x4D :: dirMarker d :: size :: rest ∧ 6 + size.toNat < w.length) ∨
        (∃ flag c0 c1 z0 z1 rest, w = 0x24 :: 0x58 :: dirMarker d :: flag :: c0 :: c1 :: z0 :: z1 :: rest ∧
          9 + (u16le z0 z1).toNat < w.length)) ∧
    (r = .failure .checksumMismatch ↔
      ∃ d, (∃ size cmd payload k, w = frameLBytes d size cmd payload k ∧ payload.length = size.toNat ∧
          k ≠ xorFold (coveredL size cmd payload)) ∨
        (∃ flag cmd size payload k, w = frameXBytes d flag cmd size payload k ∧ payload.length = size.toNat ∧
          k ≠ crc8 (coveredX flag cmd size payload))) ∧
    (∀ f, r = .frame f ↔ f.Verified ∧ w = f.wire) ∧
    r ≠ .failure .payloadTooLarge ∧ r ≠ .failure .unregisteredCommand

/-- Round trip both ways (R104): DEC of what ENC returns gives back the operands, for both generations, all three
directions and every length within the generation's maximum; and ENC of the fields of a record DEC returns gives back the
sequence. -/
def Obligations.EncDecRoundTrip : Prop :=
  ∀ s : State,
    (∀ dir flag cmd payload, cmd.toNat ≤ 255 → payload.length ≤ 255 →
      ∃ w k, exec (.encLegacy dir flag cmd payload) s = .next (s.withResult (.bytes w)) ∧ w.getLast? = some k ∧
        exec (.dec w) s = .next (s.withResult (.frame
          { gen := .legacy, dir := dir, flag := 0, cmd := cmd, size := BitVec.ofNat 16 payload.length,
            payload := payload, checksum := k }))) ∧
    (∀ dir flag cmd payload, payload.length ≤ 65535 →
      ∃ w k, exec (.encExtended dir flag cmd payload) s = .next (s.withResult (.bytes w)) ∧ w.getLast? = some k ∧
        exec (.dec w) s = .next (s.withResult (.frame
          { gen := .extended, dir := dir, flag := flag, cmd := cmd, size := BitVec.ofNat 16 payload.length,
            payload := payload, checksum := k }))) ∧
    (∀ w f, exec (.dec w) s = .next (s.withResult (.frame f)) →
      match f.gen with
      | .legacy => exec (.encLegacy f.dir f.flag f.cmd f.payload) s = .next (s.withResult (.bytes w))
      | .extended => exec (.encExtended f.dir f.flag f.cmd f.payload) s = .next (s.withResult (.bytes w)))

/-- ENC is injective on its domain, the flag of a legacy frame not being part of it, never gives the same bytes for both
generations, and its result has the length the format says (R99). -/
def Obligations.EncIsInjective : Prop :=
  ∀ (s : State) (dir dir' : Dir) (flag flag' : Byte) (cmd cmd' : Half) (payload payload' w : List Byte),
    (exec (.encLegacy dir flag cmd payload) s = .next (s.withResult (.bytes w)) →
      w.length = 6 + payload.length ∧
      (exec (.encLegacy dir' flag' cmd' payload') s = .next (s.withResult (.bytes w)) →
        dir = dir' ∧ cmd = cmd' ∧ payload = payload') ∧
      exec (.encExtended dir' flag' cmd' payload') s ≠ .next (s.withResult (.bytes w))) ∧
    (exec (.encExtended dir flag cmd payload) s = .next (s.withResult (.bytes w)) →
      w.length = 9 + payload.length ∧
      (exec (.encExtended dir' flag' cmd' payload') s = .next (s.withResult (.bytes w)) →
        dir = dir' ∧ flag = flag' ∧ cmd = cmd' ∧ payload = payload'))

/-- The frame of the five operations without state (R25, R93, R153): when CSUM.L, CSUM.X, ENC or DEC answers, nothing but
the returned value has changed: no register, no buffer byte, no outcome. -/
def Obligations.PureOperationsChangeNothing : Prop :=
  ∀ (s t : State) (i : Instr),
    ((∃ bytes, i = .csumL bytes ∨ i = .csumX bytes ∨ i = .dec bytes) ∨
      (∃ dir flag cmd payload, i = .encLegacy dir flag cmd payload ∨ i = .encExtended dir flag cmd payload)) →
    exec i s = .next t → t = s.withResult t.result

/-! ### Reset and whole-machine properties -/

/-- RST (R167): phase to `Idle`, offset to 0, every other register and the buffer left as they are, no outcome emitted;
the earlier outcomes are kept and the new epoch's stream starts empty (log 6). -/
def Obligations.RstRestartsTheParser : Prop :=
  ∀ s : State, exec .rst s = .next
    { s with
      parser := { s.parser with phase := .idle, offset := 0 }
      out := []
      past := s.past ++ [s.out]
      result := .none }

/-- What the spec says of the state right after power-on (R33, R166, R8): `Idle`, offset 0, an empty outcome stream,
default capacities; and nothing written in the payload buffer. -/
def Obligations.ResetValues : Prop :=
  State.reset.parser.phase = .idle ∧ State.reset.parser.offset = 0 ∧ State.reset.out = [] ∧
    State.reset.params.maxLegacy = 255 ∧ State.reset.params.maxExt = 65535 ∧
    ∀ a, Memory.read State.reset.parser.pbuf a = none

/-- The invariant holds at reset. -/
def Obligations.ResetMeetsInv : Prop := State.reset.Inv

/-- Every step keeps the invariant (R22, R26, R29, R128, R135): the parser stays in a phase that can be held, with the
running checksum that of the covered bytes consumed so far, the payload so far in the buffer, the buffer canonical and
within bounds, and every Frame outcome ever emitted verified. -/
def Obligations.StepKeepsInv : Prop :=
  ∀ s t : State, s.Inv → step s = .next t → t.Inv

/-- No step from a state of the invariant faults (R38, R39, R157): no payload byte is read before it is written, and no
index leaves the buffer; and PUSH and FEED are never refused (R132). -/
def Obligations.InvStatesNeverFault : Prop :=
  ∀ s : State, s.Inv →
    (∀ f, step s ≠ .fault f) ∧ (∀ b r, exec (.push b) s ≠ .refused r) ∧ (∀ bytes r, exec (.feed bytes) s ≠ .refused r)

/-- The parameters are fixed when the instance is made: no step changes them (R28, R171). -/
def Obligations.ParametersNeverChange : Prop :=
  ∀ s t : State, step s = .next t → t.params = s.params

/-- Outcomes are only ever appended, in order, and an RST closes the stream without withdrawing any (R31, R47, R167; the
closed streams: log 6). -/
def Obligations.OutcomesAreNeverWithdrawn : Prop :=
  ∀ s t : State, step s = .next t →
    (t.past = s.past ∧ ∃ outs, t.out = s.out ++ outs) ∨ (t.past = s.past ++ [s.out] ∧ t.out = [])

/-- Stale registers are unobservable (R26, R32, R33): two parsers that agree on what is live in their phase give the same
outcomes for every further input and agree again afterwards, whatever their dead registers and buffer bytes hold. So no
outcome rests on the values the model names at reset (log 3). -/
def Obligations.StaleRegistersAreUnobservable : Prop :=
  ∀ (s t : State) (bytes : List Byte), s.Inv → t.Inv → s.params = t.params → s.parser.SameLive t.parser →
    ∃ s' t' : State, exec (.feed bytes) s = .next s' ∧ exec (.feed bytes) t = .next t' ∧
      s'.result = t'.result ∧ s'.parser.SameLive t'.parser

/-- RST in the middle of a frame discards it without trace (R169, R170): whatever is fed next gives the outcomes it gives
from a fresh instance with the same parameters. -/
def Obligations.RstDiscardsFrameInProgress : Prop :=
  ∀ (s : State) (bytes : List Byte), s.Inv →
    ∃ r t u : State, exec .rst s = .next r ∧ exec (.feed bytes) r = .next t ∧
      exec (.feed bytes) { State.reset with params := s.params } = .next u ∧
      t.out = u.out ∧ t.result = u.result ∧ t.parser.phase = u.parser.phase

/-- The payload buffer over a range (R36, R37, R38): bytes written from an index on are read back in order, and every
other index reads as before. -/
def Obligations.BufferRangeReadsBack : Prop :=
  ∀ (m : Memory) (a : Nat) (vs : List Byte),
    Memory.readRange (Memory.writeRange m a vs) a vs.length = some vs ∧
    ∀ k, k < a ∨ a + vs.length ≤ k → Memory.read (Memory.writeRange m a vs) k = Memory.read m k
end

