-- ==== Sys2Proof/Laws/Checksum.lean ====
section
/-!
SUPPORT. Laws of the checksum functions that the running accumulator rests on (R23).
-/
namespace Sys2Proof

@[simp] theorem xorFold_nil : xorFold [] = 0 := rfl
@[simp] theorem crc8_nil : crc8 [] = 0 := rfl

theorem xorFold_concat (s : List Byte) (b : Byte) : xorFold (s ++ [b]) = xorFold s ^^^ b := by
  simp [xorFold]

theorem crc8_concat (s : List Byte) (b : Byte) : crc8 (s ++ [b]) = crc8Step (crc8 s) b := by
  simp [crc8]

/-- The running checksum is the checksum of one byte more. -/
theorem checksumOf_concat (g : Gen) (s : List Byte) (b : Byte) :
    checksumOf g (s ++ [b]) = checksumStep g (checksumOf g s) b := by
  cases g
  · exact xorFold_concat s b
  · exact crc8_concat s b

end Sys2Proof
end

