-- ==== Sys2Proof/Laws/Memory.lean ====
section
/-!
SUPPORT. Laws of the payload buffer: what a write changes and leaves alone, and that every operation keeps the canonical
form and the bound.
-/
namespace Sys2Proof.Machine

@[simp] theorem Memory.read_nil (a : Nat) : Memory.read [] a = none := rfl

theorem Memory.read_write_same (m : Memory) (a : Nat) (v : Byte) : Memory.read (Memory.write m a v) a = some v := by
  induction m with
  | nil => simp [Memory.write, Memory.read]
  | cons c m ih =>
    obtain ⟨k, w⟩ := c
    simp only [Memory.write]
    split
    · simp [Memory.read, *]
    · split <;> simp [Memory.read, *]

theorem Memory.read_write_other (m : Memory) {a k : Nat} (v : Byte) (h : k ≠ a) :
    Memory.read (Memory.write m a v) k = Memory.read m k := by
  induction m with
  | nil => simp [Memory.write, Memory.read]; omega
  | cons c m ih =>
    obtain ⟨j, w⟩ := c
    simp only [Memory.write]
    split
    · subst_vars; simp [Memory.read, Ne.symm h]
    · split
      · simp [Memory.read, Ne.symm h]
      · simp [Memory.read, ih]

theorem Memory.read_write (m : Memory) (a k : Nat) (v : Byte) :
    Memory.read (Memory.write m a v) k = if k = a then some v else Memory.read m k := by
  split
  · subst_vars; exact Memory.read_write_same m _ v
  · exact Memory.read_write_other m v ‹_›

theorem Memory.mem_write {m : Memory} {a : Nat} {v : Byte} {c : Host.Cell} (h : c ∈ Memory.write m a v) :
    c = (a, v) ∨ c ∈ m := by
  induction m with
  | nil => simpa [Memory.write] using h
  | cons d m ih =>
    obtain ⟨k, w⟩ := d
    simp only [Memory.write] at h
    split at h
    · subst_vars; simp at h ⊢; tauto
    · split at h
      · simp at h ⊢; tauto
      · simp only [List.mem_cons] at h ⊢
        rcases h with h | h
        · exact .inr (.inl h)
        · rcases ih h with h | h
          · exact .inl h
          · exact .inr (.inr h)

theorem Memory.wf_iff_pairwise (m : Memory) : Memory.wf m = true ↔ m.Pairwise (fun c d => c.1 < d.1) := by
  induction m with
  | nil => simp [Memory.wf]
  | cons c m ih =>
    cases m with
    | nil => simp [Memory.wf]
    | cons d m =>
      simp only [Memory.wf, Bool.and_eq_true, decide_eq_true_eq, ih]
      rw [List.pairwise_cons (l := d :: m)]
      refine and_congr_left fun h => ?_
      constructor
      · intro hcd e he
        rcases List.mem_cons.1 he with rfl | he
        · exact hcd
        · exact lt_trans hcd ((List.pairwise_cons.1 h).1 e he)
      · intro h'; exact h' d (by simp)

/-- A write keeps the canonical form. -/
theorem Memory.wf_write {m : Memory} (a : Nat) (v : Byte) (h : Memory.wf m = true) :
    Memory.wf (Memory.write m a v) = true := by
  rw [Memory.wf_iff_pairwise] at *
  induction m with
  | nil => simp [Memory.write]
  | cons c m ih =>
    obtain ⟨k, w⟩ := c
    rw [List.pairwise_cons] at h
    simp only [Memory.write]
    split
    · exact List.pairwise_cons.2 ⟨h.1, h.2⟩
    · split
      · refine List.pairwise_cons.2 ⟨fun e he => ?_, List.pairwise_cons.2 h⟩
        rcases List.mem_cons.1 he with rfl | he
        · assumption
        · have := h.1 e he; simp only at this ⊢; omega
      · refine List.pairwise_cons.2 ⟨fun e he => ?_, ih h.2⟩
        rcases Memory.mem_write he with rfl | he
        · simp only; omega
        · exact h.1 e he

theorem Memory.wf_writeRange {m : Memory} (a : Nat) (vs : List Byte) (h : Memory.wf m = true) :
    Memory.wf (Memory.writeRange m a vs) = true := by
  induction vs generalizing m a with
  | nil => exact h
  | cons v vs ih => exact ih (a + 1) (Memory.wf_write a v h)

/-- A write within the bound keeps the form and the bound. -/
theorem Memory.Within.write {m : Memory} {cap a : Nat} (v : Byte) (h : Memory.Within m cap) (ha : a < cap) :
    Memory.Within (Memory.write m a v) cap := by
  refine ⟨Memory.wf_write a v h.1, fun c hc => ?_⟩
  rcases Memory.mem_write hc with rfl | hc
  · exact ha
  · exact h.2 c hc

/-- The buffer at reset is canonical. -/
theorem Memory.wf_reset : Memory.wf State.reset.parser.pbuf = true := rfl

/-- A range that is read whole has as many bytes as asked for. -/
theorem Memory.length_readRange {m : Memory} {a n : Nat} {vs : List Byte} (h : Memory.readRange m a n = some vs) :
    vs.length = n := by
  induction n generalizing a vs with
  | zero => cases h; rfl
  | succ n ih =>
    simp only [Memory.readRange] at h
    split at h
    · cases h; simp [ih ‹_›]
    · cases h

/-- What a range read whole says of each byte. -/
theorem Memory.readRange_eq_some {m : Memory} {a n : Nat} {vs : List Byte} :
    Memory.readRange m a n = some vs ↔ vs.length = n ∧ ∀ k < n, Memory.read m (a + k) = vs[k]? := by
  induction n generalizing a vs with
  | zero =>
    simp only [Memory.readRange, Option.some.injEq]
    constructor
    · rintro rfl; simp
    · rintro ⟨h, -⟩; exact (List.length_eq_zero_iff.1 h).symm
  | succ n ih =>
    constructor
    · intro h
      refine ⟨Memory.length_readRange h, ?_⟩
      simp only [Memory.readRange] at h
      split at h
      · rename_i v vs' hv hvs
        cases h
        intro k hk
        cases k with
        | zero => simpa using hv
        | succ k =>
          have := (ih.1 hvs).2 k (by omega)
          rw [List.getElem?_cons_succ, ← this]; congr 1; omega
      · cases h
    · rintro ⟨hl, h⟩
      cases vs with
      | nil => simp at hl
      | cons v vs =>
        have h0 : Memory.read m a = some v := by simpa using h 0 (by omega)
        have ht : Memory.readRange m (a + 1) n = some vs := by
          refine ih.2 ⟨by simpa using hl, fun k hk => ?_⟩
          have := h (k + 1) (by omega)
          rw [List.getElem?_cons_succ] at this
          rw [← this]; congr 1; omega
        simp [Memory.readRange, h0, ht]

/-- Ranges that agree byte by byte read the same. -/
theorem Memory.readRange_congr {m m' : Memory} {a n : Nat}
    (h : ∀ k, a ≤ k → k < a + n → Memory.read m k = Memory.read m' k) :
    Memory.readRange m a n = Memory.readRange m' a n := by
  induction n generalizing a with
  | zero => rfl
  | succ n ih =>
    simp only [Memory.readRange]
    rw [h a (le_refl a) (by omega), ih fun k hk hk' => h k (by omega) (by omega)]

/-- A range extended by the byte written right after it. -/
theorem Memory.readRange_write_next {m : Memory} {n : Nat} {vs : List Byte} (b : Byte)
    (h : Memory.readRange m 0 n = some vs) :
    Memory.readRange (Memory.write m n b) 0 (n + 1) = some (vs ++ [b]) := by
  rw [Memory.readRange_eq_some] at *
  obtain ⟨hl, h⟩ := h
  refine ⟨by simp [hl], fun k hk => ?_⟩
  simp only [Nat.zero_add] at *
  rw [Memory.read_write]
  split
  · subst_vars; simp
  · rw [h k (by omega), List.getElem?_append_left (by omega)]

end Sys2Proof.Machine
end

