-- ==== Sys2Proof/Laws/Operands.lean ====
section
/-!
SUPPORT. Laws of the field assembly: halves from bytes and back, and the marker and code tables and their inverses.
-/
namespace Sys2Proof

theorem u16le_toNat (lo hi : Byte) : (u16le lo hi).toNat = lo.toNat + 256 * hi.toNat := by
  unfold u16le
  rw [BitVec.toNat_append, Nat.shiftLeft_eq, ← Nat.shiftLeft_eq, ← Nat.shiftLeft_add_eq_or_of_lt (by omega),
    Nat.shiftLeft_eq]
  omega

theorem lo8_toNat (v : Half) : (lo8 v).toNat = v.toNat % 256 := by
  simp [lo8]

theorem hi8_toNat (v : Half) : (hi8 v).toNat = v.toNat / 256 := by
  have := v.isLt
  simp only [hi8, BitVec.extractLsb'_toNat, Nat.shiftRight_eq_div_pow]
  omega

@[simp] theorem lo8_u16le (lo hi : Byte) : lo8 (u16le lo hi) = lo := by
  apply BitVec.eq_of_toNat_eq; rw [lo8_toNat, u16le_toNat]; omega

@[simp] theorem hi8_u16le (lo hi : Byte) : hi8 (u16le lo hi) = hi := by
  apply BitVec.eq_of_toNat_eq; rw [hi8_toNat, u16le_toNat]; omega

@[simp] theorem u16le_lo8_hi8 (v : Half) : u16le (lo8 v) (hi8 v) = v := by
  apply BitVec.eq_of_toNat_eq; rw [u16le_toNat, lo8_toNat, hi8_toNat]; omega

@[simp] theorem zext16_toNat (b : Byte) : (zext16 b).toNat = b.toNat := by
  simp only [zext16, BitVec.toNat_setWidth]; omega

@[simp] theorem lo8_zext16 (b : Byte) : lo8 (zext16 b) = b := by
  apply BitVec.eq_of_toNat_eq; rw [lo8_toNat, zext16_toNat]; omega

theorem zext16_lo8 {v : Half} (h : v.toNat ≤ 255) : zext16 (lo8 v) = v := by
  apply BitVec.eq_of_toNat_eq; rw [zext16_toNat, lo8_toNat]; omega

@[simp] theorem lo8_withLow (v : Half) (b : Byte) : lo8 (withLow v b) = b := by simp [withLow]
@[simp] theorem hi8_withLow (v : Half) (b : Byte) : hi8 (withLow v b) = hi8 v := by simp [withLow]
@[simp] theorem lo8_withHigh (v : Half) (b : Byte) : lo8 (withHigh v b) = lo8 v := by simp [withHigh]
@[simp] theorem hi8_withHigh (v : Half) (b : Byte) : hi8 (withHigh v b) = b := by simp [withHigh]

@[simp] theorem genOfMarker_genMarker (g : Gen) : genOfMarker (genMarker g) = some g := by
  cases g <;> rfl

theorem genOfMarker_eq_some {b : Byte} {g : Gen} : genOfMarker b = some g ↔ b = genMarker g := by
  constructor
  · unfold genOfMarker; intro h; split at h
    · cases h; assumption
    · split at h <;> cases h; assumption
  · rintro rfl; simp

theorem genOfMarker_eq_none {b : Byte} : genOfMarker b = none ↔ b ≠ 0x4D ∧ b ≠ 0x58 := by
  unfold genOfMarker; split <;> simp_all

@[simp] theorem dirOfMarker_dirMarker (d : Dir) : dirOfMarker (dirMarker d) = some d := by
  cases d <;> rfl

theorem dirOfMarker_eq_some {b : Byte} {d : Dir} : dirOfMarker b = some d ↔ b = dirMarker d := by
  constructor
  · unfold dirOfMarker; intro h; split at h
    · cases h; assumption
    · split at h
      · cases h; assumption
      · split at h <;> cases h; assumption
  · rintro rfl; simp

theorem dirOfMarker_eq_none {b : Byte} : dirOfMarker b = none ↔ b ≠ 0x3C ∧ b ≠ 0x3E ∧ b ≠ 0x21 := by
  unfold dirOfMarker; split <;> [simp_all; (split <;> [simp_all; (split <;> simp_all)])]

@[simp] theorem genOfCode_genCode (g : Gen) : genOfCode (genCode g) = g := by cases g <;> rfl

@[simp] theorem genCode_genOfCode (c : BitVec 1) : genCode (genOfCode c) = c := by revert c; decide

@[simp] theorem dirOfCode_dirCode (d : Dir) : dirOfCode (dirCode d) = some d := by cases d <;> rfl

theorem dirOfCode_eq_some {c : BitVec 2} {d : Dir} : dirOfCode c = some d ↔ c = dirCode d := by
  cases d <;> revert c <;> decide

end Sys2Proof
end

