-- ==== Sys2Proof/Laws/State.lean ====
section
/-!
SUPPORT. State: one lemma per field per named update of the state, each true by rfl and tagged simp, so that no later proof
unfolds a record update.
-/
namespace Sys2Proof.Machine

/-! ### The parser's updates -/

@[simp] theorem Parser.takeGeneration_phase (p : Parser) (g : Gen) :
    (p.takeGeneration g).phase = .sawGenerationMarker := rfl
@[simp] theorem Parser.takeGeneration_offset (p : Parser) (g : Gen) :
    (p.takeGeneration g).offset = p.offset := rfl
@[simp] theorem Parser.takeGeneration_gen (p : Parser) (g : Gen) :
    (p.takeGeneration g).gen = g := rfl
@[simp] theorem Parser.takeGeneration_dir (p : Parser) (g : Gen) :
    (p.takeGeneration g).dir = p.dir := rfl
@[simp] theorem Parser.takeGeneration_flag (p : Parser) (g : Gen) :
    (p.takeGeneration g).flag = p.flag := rfl
@[simp] theorem Parser.takeGeneration_cmd (p : Parser) (g : Gen) :
    (p.takeGeneration g).cmd = p.cmd := rfl
@[simp] theorem Parser.takeGeneration_size (p : Parser) (g : Gen) :
    (p.takeGeneration g).size = p.size := rfl
@[simp] theorem Parser.takeGeneration_idx (p : Parser) (g : Gen) :
    (p.takeGeneration g).idx = p.idx := rfl
@[simp] theorem Parser.takeGeneration_rem (p : Parser) (g : Gen) :
    (p.takeGeneration g).rem = p.rem := rfl
@[simp] theorem Parser.takeGeneration_acc (p : Parser) (g : Gen) :
    (p.takeGeneration g).acc = p.acc := rfl
@[simp] theorem Parser.takeGeneration_pbuf (p : Parser) (g : Gen) :
    (p.takeGeneration g).pbuf = p.pbuf := rfl

@[simp] theorem Parser.takeDirection_phase (p : Parser) (d : Dir) :
    (p.takeDirection d).phase = phaseAfterDirection p.gen := rfl
@[simp] theorem Parser.takeDirection_offset (p : Parser) (d : Dir) :
    (p.takeDirection d).offset = p.offset := rfl
@[simp] theorem Parser.takeDirection_gen (p : Parser) (d : Dir) :
    (p.takeDirection d).gen = p.gen := rfl
@[simp] theorem Parser.takeDirection_dir (p : Parser) (d : Dir) :
    (p.takeDirection d).dir = d := rfl
@[simp] theorem Parser.takeDirection_flag (p : Parser) (d : Dir) :
    (p.takeDirection d).flag = p.flag := rfl
@[simp] theorem Parser.takeDirection_cmd (p : Parser) (d : Dir) :
    (p.takeDirection d).cmd = p.cmd := rfl
@[simp] theorem Parser.takeDirection_size (p : Parser) (d : Dir) :
    (p.takeDirection d).size = p.size := rfl
@[simp] theorem Parser.takeDirection_idx (p : Parser) (d : Dir) :
    (p.takeDirection d).idx = .low := rfl
@[simp] theorem Parser.takeDirection_rem (p : Parser) (d : Dir) :
    (p.takeDirection d).rem = p.rem := rfl
@[simp] theorem Parser.takeDirection_acc (p : Parser) (d : Dir) :
    (p.takeDirection d).acc = 0 := rfl
@[simp] theorem Parser.takeDirection_pbuf (p : Parser) (d : Dir) :
    (p.takeDirection d).pbuf = p.pbuf := rfl

@[simp] theorem Parser.takeFlag_phase (p : Parser) (b : Byte) :
    (p.takeFlag b).phase = .readingCommand := rfl
@[simp] theorem Parser.takeFlag_offset (p : Parser) (b : Byte) :
    (p.takeFlag b).offset = p.offset := rfl
@[simp] theorem Parser.takeFlag_gen (p : Parser) (b : Byte) :
    (p.takeFlag b).gen = p.gen := rfl
@[simp] theorem Parser.takeFlag_dir (p : Parser) (b : Byte) :
    (p.takeFlag b).dir = p.dir := rfl
@[simp] theorem Parser.takeFlag_flag (p : Parser) (b : Byte) :
    (p.takeFlag b).flag = b := rfl
@[simp] theorem Parser.takeFlag_cmd (p : Parser) (b : Byte) :
    (p.takeFlag b).cmd = p.cmd := rfl
@[simp] theorem Parser.takeFlag_size (p : Parser) (b : Byte) :
    (p.takeFlag b).size = p.size := rfl
@[simp] theorem Parser.takeFlag_idx (p : Parser) (b : Byte) :
    (p.takeFlag b).idx = .low := rfl
@[simp] theorem Parser.takeFlag_rem (p : Parser) (b : Byte) :
    (p.takeFlag b).rem = p.rem := rfl
@[simp] theorem Parser.takeFlag_acc (p : Parser) (b : Byte) :
    (p.takeFlag b).acc = crc8Step p.acc b := rfl
@[simp] theorem Parser.takeFlag_pbuf (p : Parser) (b : Byte) :
    (p.takeFlag b).pbuf = p.pbuf := rfl

@[simp] theorem Parser.takeLegacySize_phase (p : Parser) (b : Byte) :
    (p.takeLegacySize b).phase = .readingCommand := rfl
@[simp] theorem Parser.takeLegacySize_offset (p : Parser) (b : Byte) :
    (p.takeLegacySize b).offset = p.offset := rfl
@[simp] theorem Parser.takeLegacySize_gen (p : Parser) (b : Byte) :
    (p.takeLegacySize b).gen = p.gen := rfl
@[simp] theorem Parser.takeLegacySize_dir (p : Parser) (b : Byte) :
    (p.takeLegacySize b).dir = p.dir := rfl
@[simp] theorem Parser.takeLegacySize_flag (p : Parser) (b : Byte) :
    (p.takeLegacySize b).flag = p.flag := rfl
@[simp] theorem Parser.takeLegacySize_cmd (p : Parser) (b : Byte) :
    (p.takeLegacySize b).cmd = p.cmd := rfl
@[simp] theorem Parser.takeLegacySize_size (p : Parser) (b : Byte) :
    (p.takeLegacySize b).size = zext16 b := rfl
@[simp] theorem Parser.takeLegacySize_idx (p : Parser) (b : Byte) :
    (p.takeLegacySize b).idx = p.idx := rfl
@[simp] theorem Parser.takeLegacySize_rem (p : Parser) (b : Byte) :
    (p.takeLegacySize b).rem = p.rem := rfl
@[simp] theorem Parser.takeLegacySize_acc (p : Parser) (b : Byte) :
    (p.takeLegacySize b).acc = p.acc ^^^ b := rfl
@[simp] theorem Parser.takeLegacySize_pbuf (p : Parser) (b : Byte) :
    (p.takeLegacySize b).pbuf = p.pbuf := rfl

@[simp] theorem Parser.takeLegacyCommand_phase (p : Parser) (b : Byte) :
    (p.takeLegacyCommand b).phase = phaseAfterHeader p.size := rfl
@[simp] theorem Parser.takeLegacyCommand_offset (p : Parser) (b : Byte) :
    (p.takeLegacyCommand b).offset = p.offset := rfl
@[simp] theorem Parser.takeLegacyCommand_gen (p : Parser) (b : Byte) :
    (p.takeLegacyCommand b).gen = p.gen := rfl
@[simp] theorem Parser.takeLegacyCommand_dir (p : Parser) (b : Byte) :
    (p.takeLegacyCommand b).dir = p.dir := rfl
@[simp] theorem Parser.takeLegacyCommand_flag (p : Parser) (b : Byte) :
    (p.takeLegacyCommand b).flag = p.flag := rfl
@[simp] theorem Parser.takeLegacyCommand_cmd (p : Parser) (b : Byte) :
    (p.takeLegacyCommand b).cmd = zext16 b := rfl
@[simp] theorem Parser.takeLegacyCommand_size (p : Parser) (b : Byte) :
    (p.takeLegacyCommand b).size = p.size := rfl
@[simp] theorem Parser.takeLegacyCommand_idx (p : Parser) (b : Byte) :
    (p.takeLegacyCommand b).idx = p.idx := rfl
@[simp] theorem Parser.takeLegacyCommand_rem (p : Parser) (b : Byte) :
    (p.takeLegacyCommand b).rem = p.size := rfl
@[simp] theorem Parser.takeLegacyCommand_acc (p : Parser) (b : Byte) :
    (p.takeLegacyCommand b).acc = p.acc ^^^ b := rfl
@[simp] theorem Parser.takeLegacyCommand_pbuf (p : Parser) (b : Byte) :
    (p.takeLegacyCommand b).pbuf = p.pbuf := rfl

@[simp] theorem Parser.takeCommandLow_phase (p : Parser) (b : Byte) :
    (p.takeCommandLow b).phase = .readingCommand := rfl
@[simp] theorem Parser.takeCommandLow_offset (p : Parser) (b : Byte) :
    (p.takeCommandLow b).offset = p.offset := rfl
@[simp] theorem Parser.takeCommandLow_gen (p : Parser) (b : Byte) :
    (p.takeCommandLow b).gen = p.gen := rfl
@[simp] theorem Parser.takeCommandLow_dir (p : Parser) (b : Byte) :
    (p.takeCommandLow b).dir = p.dir := rfl
@[simp] theorem Parser.takeCommandLow_flag (p : Parser) (b : Byte) :
    (p.takeCommandLow b).flag = p.flag := rfl
@[simp] theorem Parser.takeCommandLow_cmd (p : Parser) (b : Byte) :
    (p.takeCommandLow b).cmd = withLow p.cmd b := rfl
@[simp] theorem Parser.takeCommandLow_size (p : Parser) (b : Byte) :
    (p.takeCommandLow b).size = p.size := rfl
@[simp] theorem Parser.takeCommandLow_idx (p : Parser) (b : Byte) :
    (p.takeCommandLow b).idx = .high := rfl
@[simp] theorem Parser.takeCommandLow_rem (p : Parser) (b : Byte) :
    (p.takeCommandLow b).rem = p.rem := rfl
@[simp] theorem Parser.takeCommandLow_acc (p : Parser) (b : Byte) :
    (p.takeCommandLow b).acc = crc8Step p.acc b := rfl
@[simp] theorem Parser.takeCommandLow_pbuf (p : Parser) (b : Byte) :
    (p.takeCommandLow b).pbuf = p.pbuf := rfl

@[simp] theorem Parser.takeCommandHigh_phase (p : Parser) (b : Byte) :
    (p.takeCommandHigh b).phase = .readingSize := rfl
@[simp] theorem Parser.takeCommandHigh_offset (p : Parser) (b : Byte) :
    (p.takeCommandHigh b).offset = p.offset := rfl
@[simp] theorem Parser.takeCommandHigh_gen (p : Parser) (b : Byte) :
    (p.takeCommandHigh b).gen = p.gen := rfl
@[simp] theorem Parser.takeCommandHigh_dir (p : Parser) (b : Byte) :
    (p.takeCommandHigh b).dir = p.dir := rfl
@[simp] theorem Parser.takeCommandHigh_flag (p : Parser) (b : Byte) :
    (p.takeCommandHigh b).flag = p.flag := rfl
@[simp] theorem Parser.takeCommandHigh_cmd (p : Parser) (b : Byte) :
    (p.takeCommandHigh b).cmd = withHigh p.cmd b := rfl
@[simp] theorem Parser.takeCommandHigh_size (p : Parser) (b : Byte) :
    (p.takeCommandHigh b).size = p.size := rfl
@[simp] theorem Parser.takeCommandHigh_idx (p : Parser) (b : Byte) :
    (p.takeCommandHigh b).idx = .low := rfl
@[simp] theorem Parser.takeCommandHigh_rem (p : Parser) (b : Byte) :
    (p.takeCommandHigh b).rem = p.rem := rfl
@[simp] theorem Parser.takeCommandHigh_acc (p : Parser) (b : Byte) :
    (p.takeCommandHigh b).acc = crc8Step p.acc b := rfl
@[simp] theorem Parser.takeCommandHigh_pbuf (p : Parser) (b : Byte) :
    (p.takeCommandHigh b).pbuf = p.pbuf := rfl

@[simp] theorem Parser.takeSizeLow_phase (p : Parser) (b : Byte) :
    (p.takeSizeLow b).phase = .readingSize := rfl
@[simp] theorem Parser.takeSizeLow_offset (p : Parser) (b : Byte) :
    (p.takeSizeLow b).offset = p.offset := rfl
@[simp] theorem Parser.takeSizeLow_gen (p : Parser) (b : Byte) :
    (p.takeSizeLow b).gen = p.gen := rfl
@[simp] theorem Parser.takeSizeLow_dir (p : Parser) (b : Byte) :
    (p.takeSizeLow b).dir = p.dir := rfl
@[simp] theorem Parser.takeSizeLow_flag (p : Parser) (b : Byte) :
    (p.takeSizeLow b).flag = p.flag := rfl
@[simp] theorem Parser.takeSizeLow_cmd (p : Parser) (b : Byte) :
    (p.takeSizeLow b).cmd = p.cmd := rfl
@[simp] theorem Parser.takeSizeLow_size (p : Parser) (b : Byte) :
    (p.takeSizeLow b).size = withLow p.size b := rfl
@[simp] theorem Parser.takeSizeLow_idx (p : Parser) (b : Byte) :
    (p.takeSizeLow b).idx = .high := rfl
@[simp] theorem Parser.takeSizeLow_rem (p : Parser) (b : Byte) :
    (p.takeSizeLow b).rem = p.rem := rfl
@[simp] theorem Parser.takeSizeLow_acc (p : Parser) (b : Byte) :
    (p.takeSizeLow b).acc = crc8Step p.acc b := rfl
@[simp] theorem Parser.takeSizeLow_pbuf (p : Parser) (b : Byte) :
    (p.takeSizeLow b).pbuf = p.pbuf := rfl

@[simp] theorem Parser.takeSizeHigh_phase (p : Parser) (b : Byte) :
    (p.takeSizeHigh b).phase = p.phase := rfl
@[simp] theorem Parser.takeSizeHigh_offset (p : Parser) (b : Byte) :
    (p.takeSizeHigh b).offset = p.offset := rfl
@[simp] theorem Parser.takeSizeHigh_gen (p : Parser) (b : Byte) :
    (p.takeSizeHigh b).gen = p.gen := rfl
@[simp] theorem Parser.takeSizeHigh_dir (p : Parser) (b : Byte) :
    (p.takeSizeHigh b).dir = p.dir := rfl
@[simp] theorem Parser.takeSizeHigh_flag (p : Parser) (b : Byte) :
    (p.takeSizeHigh b).flag = p.flag := rfl
@[simp] theorem Parser.takeSizeHigh_cmd (p : Parser) (b : Byte) :
    (p.takeSizeHigh b).cmd = p.cmd := rfl
@[simp] theorem Parser.takeSizeHigh_size (p : Parser) (b : Byte) :
    (p.takeSizeHigh b).size = withHigh p.size b := rfl
@[simp] theorem Parser.takeSizeHigh_idx (p : Parser) (b : Byte) :
    (p.takeSizeHigh b).idx = .low := rfl
@[simp] theorem Parser.takeSizeHigh_rem (p : Parser) (b : Byte) :
    (p.takeSizeHigh b).rem = p.rem := rfl
@[simp] theorem Parser.takeSizeHigh_acc (p : Parser) (b : Byte) :
    (p.takeSizeHigh b).acc = crc8Step p.acc b := rfl
@[simp] theorem Parser.takeSizeHigh_pbuf (p : Parser) (b : Byte) :
    (p.takeSizeHigh b).pbuf = p.pbuf := rfl

@[simp] theorem Parser.startPayload_phase (p : Parser) :
    p.startPayload.phase = phaseAfterHeader p.size := rfl
@[simp] theorem Parser.startPayload_offset (p : Parser) :
    p.startPayload.offset = p.offset := rfl
@[simp] theorem Parser.startPayload_gen (p : Parser) :
    p.startPayload.gen = p.gen := rfl
@[simp] theorem Parser.startPayload_dir (p : Parser) :
    p.startPayload.dir = p.dir := rfl
@[simp] theorem Parser.startPayload_flag (p : Parser) :
    p.startPayload.flag = p.flag := rfl
@[simp] theorem Parser.startPayload_cmd (p : Parser) :
    p.startPayload.cmd = p.cmd := rfl
@[simp] theorem Parser.startPayload_size (p : Parser) :
    p.startPayload.size = p.size := rfl
@[simp] theorem Parser.startPayload_idx (p : Parser) :
    p.startPayload.idx = p.idx := rfl
@[simp] theorem Parser.startPayload_rem (p : Parser) :
    p.startPayload.rem = p.size := rfl
@[simp] theorem Parser.startPayload_acc (p : Parser) :
    p.startPayload.acc = p.acc := rfl
@[simp] theorem Parser.startPayload_pbuf (p : Parser) :
    p.startPayload.pbuf = p.pbuf := rfl

@[simp] theorem Parser.takePayload_phase (p : Parser) (b : Byte) :
    (p.takePayload b).phase = if p.rem - 1 = 0 then .readingChecksum else .readingPayload := rfl
@[simp] theorem Parser.takePayload_offset (p : Parser) (b : Byte) :
    (p.takePayload b).offset = p.offset := rfl
@[simp] theorem Parser.takePayload_gen (p : Parser) (b : Byte) :
    (p.takePayload b).gen = p.gen := rfl
@[simp] theorem Parser.takePayload_dir (p : Parser) (b : Byte) :
    (p.takePayload b).dir = p.dir := rfl
@[simp] theorem Parser.takePayload_flag (p : Parser) (b : Byte) :
    (p.takePayload b).flag = p.flag := rfl
@[simp] theorem Parser.takePayload_cmd (p : Parser) (b : Byte) :
    (p.takePayload b).cmd = p.cmd := rfl
@[simp] theorem Parser.takePayload_size (p : Parser) (b : Byte) :
    (p.takePayload b).size = p.size := rfl
@[simp] theorem Parser.takePayload_idx (p : Parser) (b : Byte) :
    (p.takePayload b).idx = p.idx := rfl
@[simp] theorem Parser.takePayload_rem (p : Parser) (b : Byte) :
    (p.takePayload b).rem = p.rem - 1 := rfl
@[simp] theorem Parser.takePayload_acc (p : Parser) (b : Byte) :
    (p.takePayload b).acc = p.accumulate b := rfl
@[simp] theorem Parser.takePayload_pbuf (p : Parser) (b : Byte) :
    (p.takePayload b).pbuf = Memory.write p.pbuf p.payloadIndex b := rfl

@[simp] theorem Parser.restart_phase (p : Parser) :
    p.restart.phase = .idle := rfl
@[simp] theorem Parser.restart_offset (p : Parser) :
    p.restart.offset = 0 := rfl
@[simp] theorem Parser.restart_gen (p : Parser) :
    p.restart.gen = p.gen := rfl
@[simp] theorem Parser.restart_dir (p : Parser) :
    p.restart.dir = p.dir := rfl
@[simp] theorem Parser.restart_flag (p : Parser) :
    p.restart.flag = p.flag := rfl
@[simp] theorem Parser.restart_cmd (p : Parser) :
    p.restart.cmd = p.cmd := rfl
@[simp] theorem Parser.restart_size (p : Parser) :
    p.restart.size = p.size := rfl
@[simp] theorem Parser.restart_idx (p : Parser) :
    p.restart.idx = p.idx := rfl
@[simp] theorem Parser.restart_rem (p : Parser) :
    p.restart.rem = p.rem := rfl
@[simp] theorem Parser.restart_acc (p : Parser) :
    p.restart.acc = p.acc := rfl
@[simp] theorem Parser.restart_pbuf (p : Parser) :
    p.restart.pbuf = p.pbuf := rfl

/-! ### The machine's updates -/

@[simp] theorem State.afterByte_parser (s : State) (p : Parser) (outs : List StreamOutcome) :
    (s.afterByte p outs).parser = { p with offset := s.parser.offset + 1 } := rfl
@[simp] theorem State.afterByte_params (s : State) (p : Parser) (outs : List StreamOutcome) :
    (s.afterByte p outs).params = s.params := rfl
@[simp] theorem State.afterByte_out (s : State) (p : Parser) (outs : List StreamOutcome) :
    (s.afterByte p outs).out = s.out ++ outs := rfl
@[simp] theorem State.afterByte_past (s : State) (p : Parser) (outs : List StreamOutcome) :
    (s.afterByte p outs).past = s.past := rfl
@[simp] theorem State.afterByte_result (s : State) (p : Parser) (outs : List StreamOutcome) :
    (s.afterByte p outs).result = .outcomes outs := rfl
@[simp] theorem State.afterByte_pending (s : State) (p : Parser) (outs : List StreamOutcome) :
    (s.afterByte p outs).pending = s.pending := rfl

@[simp] theorem State.withResult_parser (s : State) (r : OpResult) :
    (s.withResult r).parser = s.parser := rfl
@[simp] theorem State.withResult_params (s : State) (r : OpResult) :
    (s.withResult r).params = s.params := rfl
@[simp] theorem State.withResult_out (s : State) (r : OpResult) :
    (s.withResult r).out = s.out := rfl
@[simp] theorem State.withResult_past (s : State) (r : OpResult) :
    (s.withResult r).past = s.past := rfl
@[simp] theorem State.withResult_result (s : State) (r : OpResult) :
    (s.withResult r).result = r := rfl
@[simp] theorem State.withResult_pending (s : State) (r : OpResult) :
    (s.withResult r).pending = s.pending := rfl

@[simp] theorem State.forgetResult_parser (s : State) :
    s.forgetResult.parser = s.parser := rfl
@[simp] theorem State.forgetResult_params (s : State) :
    s.forgetResult.params = s.params := rfl
@[simp] theorem State.forgetResult_out (s : State) :
    s.forgetResult.out = s.out := rfl
@[simp] theorem State.forgetResult_past (s : State) :
    s.forgetResult.past = s.past := rfl
@[simp] theorem State.forgetResult_result (s : State) :
    s.forgetResult.result = .none := rfl
@[simp] theorem State.forgetResult_pending (s : State) :
    s.forgetResult.pending = s.pending := rfl

@[simp] theorem State.restart_parser (s : State) :
    s.restart.parser = s.parser.restart := rfl
@[simp] theorem State.restart_params (s : State) :
    s.restart.params = s.params := rfl
@[simp] theorem State.restart_out (s : State) :
    s.restart.out = [] := rfl
@[simp] theorem State.restart_past (s : State) :
    s.restart.past = s.past ++ [s.out] := rfl
@[simp] theorem State.restart_result (s : State) :
    s.restart.result = .none := rfl
@[simp] theorem State.restart_pending (s : State) :
    s.restart.pending = s.pending := rfl

@[simp] theorem State.present_params (s : State) (r : Request) :
    (s.present r).params = s.params := rfl
@[simp] theorem State.present_out (s : State) (r : Request) :
    (s.present r).out = s.out := rfl
@[simp] theorem State.present_past (s : State) (r : Request) :
    (s.present r).past = s.past := rfl
@[simp] theorem State.present_result (s : State) (r : Request) :
    (s.present r).result = s.result := rfl
@[simp] theorem State.present_pending (s : State) (r : Request) :
    (s.present r).pending = r :: s.pending := rfl

@[simp] theorem State.rxContext_phase (s : State) : s.rxContext.phase = s.parser.phase := rfl
@[simp] theorem State.rxContext_gen (s : State) : s.rxContext.gen = s.parser.gen := rfl
@[simp] theorem State.rxContext_idx (s : State) : s.rxContext.idx = s.parser.idx := rfl
@[simp] theorem State.rxContext_size (s : State) : s.rxContext.size = s.parser.size := rfl
@[simp] theorem State.rxContext_rem (s : State) : s.rxContext.rem = s.parser.rem := rfl
@[simp] theorem State.rxContext_acc (s : State) : s.rxContext.acc = s.parser.acc := rfl
@[simp] theorem State.rxContext_maxLegacy (s : State) : s.rxContext.maxLegacy = s.params.maxLegacy := rfl
@[simp] theorem State.rxContext_maxExt (s : State) : s.rxContext.maxExt = s.params.maxExt := rfl

@[simp] theorem phaseAfterDirection_legacy : phaseAfterDirection .legacy = .readingSize := rfl
@[simp] theorem phaseAfterDirection_extended : phaseAfterDirection .extended = .readingFlag := rfl
@[simp] theorem phaseAfterHeader_zero : phaseAfterHeader 0#16 = .readingChecksum := rfl

theorem phaseAfterHeader_of_ne {v : Half} (h : v ≠ 0) : phaseAfterHeader v = .readingPayload := by
  exact if_neg h

end Sys2Proof.Machine
end

