-- ==== Sys2Proof/Laws/Ops.lean ====
section
/-!
SUPPORT. Ops: for each shared operation, once, everything it can answer; the provers cite these instead of unfolding.
-/
namespace Sys2Proof.Machine

theorem State.commit_eq (s : State) (p : Parser) (outs : List StreamOutcome) :
    s.commit p outs = .next (s.afterByte p outs) := rfl

theorem State.accept_eq (s : State) (p : Parser) : s.accept p = .next (s.afterByte p []) := rfl

theorem State.raise_eq (s : State) (p : Parser) (e : ErrorCode) :
    s.raise p e = .next (s.afterByte { p with phase := .idle } [.error e s.parser.offset]) := rfl

theorem State.answer_eq (s : State) (r : OpResult) : s.answer r = .next (s.withResult r) := rfl

/-- The store of a payload byte answers a next state exactly when its index is in the buffer. -/
theorem State.storePayload_next {s t : State} {b : Byte} :
    s.storePayload b = .next t ↔
      s.parser.payloadIndex < s.params.pbufCap ∧ t = s.afterByte (s.parser.takePayload b) [] := by
  unfold State.storePayload
  split
  · rw [State.accept_eq, Host.Outcome.next.injEq]; constructor
    · rintro rfl; exact ⟨‹_›, rfl⟩
    · rintro ⟨-, rfl⟩; rfl
  · simp [*]

/-- The success path of the checksum answers a next state exactly when the payload can be read whole. -/
theorem State.deliver_next {s t : State} {k : Byte} :
    s.deliver k = .next t ↔
      s.parser.size.toNat ≤ s.params.pbufCap ∧ ∃ payload,
        Memory.readRange s.parser.pbuf 0 s.parser.size.toNat = some payload ∧
          t = s.afterByte { s.parser with phase := .idle } [.frame (s.parser.rawFrame payload k)] := by
  unfold State.deliver
  split
  · split
    · rename_i payload h
      rw [State.commit_eq, Host.Outcome.next.injEq]; constructor
      · rintro rfl; exact ⟨‹_›, payload, h, rfl⟩
      · rintro ⟨-, payload', h', rfl⟩; cases h.symm.trans h'; rfl
    · simp [*]
  · simp [*]

theorem rowIs_iff {c : RxContext} {b : Byte} {row : Instr} : rowIs c b row = true ↔ selectRow c b = .ok row := by
  unfold rowIs
  split <;> simp [*]

/-- A row answers where it is the selected one, with its own answer. -/
theorem State.onRow_of_selected {s : State} {b : Byte} {row : Instr} (a : Answer)
    (h : selectRow s.rxContext b = .ok row) : s.onRow b row a = a := by
  simp [State.onRow, rowIs_iff.2 h]

/-- A row is refused where it is not the selected one. -/
theorem State.onRow_of_not_selected {s : State} {b : Byte} {row : Instr} (a : Answer)
    (h : selectRow s.rxContext b ≠ .ok row) : s.onRow b row a = .refused .rowNotSelected := by
  have : rowIs s.rxContext b row = false := by
    rw [Bool.eq_false_iff]; exact fun h' => h (rowIs_iff.1 h')
  simp [State.onRow, this]

/-- What pushing one byte can do when it answers: the rules R112 to R126, one case each. -/
inductive PushCase (s : State) (b : Byte) : State → Prop where
  | start (h : s.parser.phase = .idle) (hb : b = startMarker) :
      PushCase s b (s.afterByte { s.parser with phase := .sawStart } [])
  | skip (h : s.parser.phase = .idle) (hb : b ≠ startMarker) :
      PushCase s b (s.afterByte { s.parser with phase := .idle } [])
  | generation (g : Gen) (h : s.parser.phase = .sawStart) (hb : b = genMarker g) :
      PushCase s b (s.afterByte (s.parser.takeGeneration g) [])
  | badGeneration (h : s.parser.phase = .sawStart) (hb : genOfMarker b = none) :
      PushCase s b (s.afterByte { s.parser with phase := .idle } [.error .invalidPreamble s.parser.offset])
  | direction (d : Dir) (h : s.parser.phase = .sawGenerationMarker) (hb : b = dirMarker d) :
      PushCase s b (s.afterByte (s.parser.takeDirection d) [])
  | badDirection (h : s.parser.phase = .sawGenerationMarker) (hb : dirOfMarker b = none) :
      PushCase s b
        (s.afterByte { s.parser with phase := .idle } [.error .unsupportedDirectionMarker s.parser.offset])
  | flag (h : s.parser.phase = .readingFlag) (hg : s.parser.gen = .extended) :
      PushCase s b (s.afterByte (s.parser.takeFlag b) [])
  | legacySize (h : s.parser.phase = .readingSize) (hg : s.parser.gen = .legacy) (hb : b ≤ s.params.maxLegacy) :
      PushCase s b (s.afterByte (s.parser.takeLegacySize b) [])
  | legacySizeOver (h : s.parser.phase = .readingSize) (hg : s.parser.gen = .legacy) (hb : s.params.maxLegacy < b) :
      PushCase s b
        (s.afterByte { s.parser.takeLegacySize b with phase := .idle } [.error .sizeMismatch s.parser.offset])
  | legacyCommand (h : s.parser.phase = .readingCommand) (hg : s.parser.gen = .legacy) :
      PushCase s b (s.afterByte (s.parser.takeLegacyCommand b) [])
  | commandLow (h : s.parser.phase = .readingCommand) (hg : s.parser.gen = .extended) (hi : s.parser.idx = .low) :
      PushCase s b (s.afterByte (s.parser.takeCommandLow b) [])
  | commandHigh (h : s.parser.phase = .readingCommand) (hg : s.parser.gen = .extended) (hi : s.parser.idx = .high) :
      PushCase s b (s.afterByte (s.parser.takeCommandHigh b) [])
  | sizeLow (h : s.parser.phase = .readingSize) (hg : s.parser.gen = .extended) (hi : s.parser.idx = .low) :
      PushCase s b (s.afterByte (s.parser.takeSizeLow b) [])
  | sizeHigh (h : s.parser.phase = .readingSize) (hg : s.parser.gen = .extended) (hi : s.parser.idx = .high)
      (hb : withHigh s.parser.size b ≤ s.params.maxExt) :
      PushCase s b (s.afterByte (s.parser.takeSizeHigh b).startPayload [])
  | sizeHighOver (h : s.parser.phase = .readingSize) (hg : s.parser.gen = .extended) (hi : s.parser.idx = .high)
      (hb : s.params.maxExt < withHigh s.parser.size b) :
      PushCase s b
        (s.afterByte { s.parser.takeSizeHigh b with phase := .idle } [.error .sizeMismatch s.parser.offset])
  | payload (h : s.parser.phase = .readingPayload) (hr : s.parser.rem ≠ 0)
      (hi : s.parser.payloadIndex < s.params.pbufCap) :
      PushCase s b (s.afterByte (s.parser.takePayload b) [])
  | delivered (payload : List Byte) (h : s.parser.phase = .readingChecksum) (hb : b = s.parser.acc)
      (hs : s.parser.size.toNat ≤ s.params.pbufCap)
      (hp : Memory.readRange s.parser.pbuf 0 s.parser.size.toNat = some payload) :
      PushCase s b
        (s.afterByte { s.parser with phase := .idle } [.frame (s.parser.rawFrame payload b)])
  | badChecksum (h : s.parser.phase = .readingChecksum) (hb : b ≠ s.parser.acc) :
      PushCase s b (s.afterByte { s.parser with phase := .idle } [.error .checksumMismatch s.parser.offset])

/-- The inversion lemma of `pushByte`: an answered push is one of the cases. -/
theorem pushByte_cases {s t : State} {b : Byte} (h : pushByte b s = .next t) : PushCase s b t := by
  unfold pushByte at h
  split at h <;> rename_i hp
  · unfold pushIdle at h
    split at h <;> cases h
    · exact .start hp ‹_›
    · exact .skip hp ‹_›
  · unfold pushSawStart at h
    split at h <;> cases h
    · exact .generation _ hp (genOfMarker_eq_some.1 ‹_›)
    · exact .badGeneration hp ‹_›
  · unfold pushSawGenerationMarker at h
    split at h <;> cases h
    · exact .direction _ hp (dirOfMarker_eq_some.1 ‹_›)
    · exact .badDirection hp ‹_›
  · cases h
  · unfold pushReadingFlag at h
    split at h <;> cases h
    exact .flag hp ‹_›
  · unfold pushReadingSize at h
    split at h <;> rename_i hg
    · unfold pushReadingSizeLegacy at h
      split at h <;> cases h
      · exact .legacySizeOver hp hg ‹_›
      · exact .legacySize hp hg (BitVec.not_lt.1 ‹_›)
    · unfold pushReadingSizeExtended at h
      split at h <;> rename_i hi
      · cases h; exact .sizeLow hp hg hi
      · split at h <;> cases h
        · exact .sizeHighOver hp hg hi ‹_›
        · exact .sizeHigh hp hg hi (BitVec.not_lt.1 ‹_›)
  · unfold pushReadingCommand at h
    split at h <;> rename_i hg
    · cases h; exact .legacyCommand hp hg
    · split at h <;> rename_i hi <;> cases h
      · exact .commandLow hp hg hi
      · exact .commandHigh hp hg hi
  · unfold pushReadingPayload at h
    split at h
    · cases h
    · obtain ⟨hi, rfl⟩ := State.storePayload_next.1 h
      exact .payload hp ‹_› hi
  · unfold pushReadingChecksum at h
    split at h
    · obtain ⟨hs, payload, hr, rfl⟩ := State.deliver_next.1 h
      exact .delivered payload hp ‹_› hs hr
    · cases h; exact .badChecksum hp ‹_›

/-- Pushing a concatenation is pushing its parts in order. -/
theorem pushAll_append (xs ys : List Byte) (s : State) :
    pushAll (xs ++ ys) s =
      match pushAll xs s with
      | .next t => pushAll ys t
      | .fault f => .fault f
      | .refused r => .refused r := by
  induction xs generalizing s with
  | nil => rfl
  | cons b bs ih =>
    simp only [List.cons_append, pushAll]
    cases pushByte b s with
    | next t => exact ih t
    | fault f => rfl
    | refused r => rfl

/-- An answered feed: the bytes were all pushed, and the returned value is what they appended. -/
theorem feedBytes_next {bytes : List Byte} {s t : State} :
    feedBytes bytes s = .next t ↔
      ∃ u, pushAll bytes s = .next u ∧ t = u.withResult (.outcomes (u.out.drop s.out.length)) := by
  unfold feedBytes
  split <;> rename_i h <;> simp [h, State.withResult, eq_comm]

end Sys2Proof.Machine
end

