-- ==== Sys2Proof/Laws/Invariant.lean ====
section
/-!
SUPPORT. Invariant: what the parser's invariant says in each phase, one lemma per phase, so that no proof unfolds it; and the
facts about countdown, index and capacity that follow from it.
-/
namespace Sys2Proof.Machine

variable {k : Params} {p : Parser}

theorem Parser.phaseOk_of_scanning (h : p.phase = .idle ∨ p.phase = .sawStart ∨ p.phase = .sawGenerationMarker) :
    p.PhaseOk k := by
  rcases h with h | h | h <;> simp [Parser.PhaseOk, h]

theorem Parser.not_phaseOk_sawDirection (h : p.phase = .sawDirection) : ¬ p.PhaseOk k := by
  simp [Parser.PhaseOk, h]

theorem Parser.phaseOk_readingFlag (h : p.phase = .readingFlag) :
    p.PhaseOk k ↔ p.gen = .extended ∧ p.acc = crc8 [] ∧ p.idx = .low := by
  cases hg : p.gen <;> simp [Parser.PhaseOk, h, hg]

theorem Parser.phaseOk_readingSize_legacy (h : p.phase = .readingSize) (hg : p.gen = .legacy) :
    p.PhaseOk k ↔ p.acc = xorFold [] := by
  simp [Parser.PhaseOk, h, hg]

theorem Parser.phaseOk_readingSize_low (h : p.phase = .readingSize) (hg : p.gen = .extended) (hi : p.idx = .low) :
    p.PhaseOk k ↔ p.acc = crc8 [p.flag, lo8 p.cmd, hi8 p.cmd] := by
  simp [Parser.PhaseOk, h, hg, hi]

theorem Parser.phaseOk_readingSize_high (h : p.phase = .readingSize) (hg : p.gen = .extended) (hi : p.idx = .high) :
    p.PhaseOk k ↔ p.acc = crc8 [p.flag, lo8 p.cmd, hi8 p.cmd, lo8 p.size] := by
  simp [Parser.PhaseOk, h, hg, hi]

theorem Parser.phaseOk_readingCommand_legacy (h : p.phase = .readingCommand) (hg : p.gen = .legacy) :
    p.PhaseOk k ↔ k.Fits .legacy p.size ∧ p.acc = xorFold [lo8 p.size] := by
  simp [Parser.PhaseOk, h, hg]

theorem Parser.phaseOk_readingCommand_low (h : p.phase = .readingCommand) (hg : p.gen = .extended)
    (hi : p.idx = .low) : p.PhaseOk k ↔ p.acc = crc8 [p.flag] := by
  simp [Parser.PhaseOk, h, hg, hi]

theorem Parser.phaseOk_readingCommand_high (h : p.phase = .readingCommand) (hg : p.gen = .extended)
    (hi : p.idx = .high) : p.PhaseOk k ↔ p.acc = crc8 [p.flag, lo8 p.cmd] := by
  simp [Parser.PhaseOk, h, hg, hi]

theorem Parser.phaseOk_readingPayload (h : p.phase = .readingPayload) :
    p.PhaseOk k ↔ k.Fits p.gen p.size ∧ p.CommandFits ∧ 1 ≤ p.rem.toNat ∧ p.rem.toNat ≤ p.size.toNat ∧
      p.HoldsPayload (p.size.toNat - p.rem.toNat) := by
  simp [Parser.PhaseOk, h]

theorem Parser.phaseOk_readingChecksum (h : p.phase = .readingChecksum) :
    p.PhaseOk k ↔ k.Fits p.gen p.size ∧ p.CommandFits ∧ p.rem = 0 ∧ p.HoldsPayload p.size.toNat := by
  simp [Parser.PhaseOk, h]

/-- The invariant does not look at the offset. -/
theorem Parser.phaseOk_withOffset (o : Offset) : Parser.PhaseOk k { p with offset := o } ↔ p.PhaseOk k := Iff.rfl

/-- A size within its generation's capacity is within the buffer. -/
theorem Params.Fits.le_pbufCap {g : Gen} {z : Half} (h : k.Fits g z) : z.toNat ≤ k.pbufCap := by
  cases g
  · exact le_trans h (le_max_left _ _)
  · exact le_trans h (le_max_right _ _)

/-- The store index while the countdown does not exceed the size (R37, R87). -/
theorem Parser.payloadIndex_of_le (h : p.rem.toNat ≤ p.size.toNat) :
    p.payloadIndex = p.size.toNat - p.rem.toNat :=
  BitVec.toNat_sub_of_le (BitVec.le_def.2 h)

/-- The countdown by one (R124). -/
theorem half_toNat_pred {v : Half} (h : 1 ≤ v.toNat) : (v - 1).toNat = v.toNat - 1 :=
  BitVec.toNat_sub_of_le (BitVec.le_def.2 h)

/-- The countdown reaches zero from one, and only from there (R124). -/
theorem half_pred_eq_zero {v : Half} : v - 1 = 0 ↔ v = 1 := by
  constructor
  · intro h
    have := congrArg (· + (1 : Half)) h
    simpa using this
  · rintro rfl; rfl

theorem half_one_le {v : Half} (h : v ≠ 0) : 1 ≤ v.toNat :=
  Nat.one_le_iff_ne_zero.2 fun h' => h (BitVec.eq_of_toNat_eq h')

end Sys2Proof.Machine
end

