-- ==== Sys2Proof/Laws/PerInstr.lean ====
section
/-!
SUPPORT. PerInstr: the family Format, one lemma per constructor of Instr: an instruction's encoding is a request of the
`format` its row has in spec/opcode_table.json (30_encoding R78).
-/
namespace Sys2Proof.Laws

/-- The `format` column of spec/opcode_table.json. -/
inductive RowFormat where
  | frameL
  | frameX
  | rxByte
  | op
  | pseudo
deriving DecidableEq, Repr

/-- The format of a constructor's row. -/
def rowFormat : Instr → RowFormat
  | .frameLTo _ _ _ _ => .frameL
  | .frameLFrom _ _ _ _ => .frameL
  | .frameLErr _ _ _ _ => .frameL
  | .frameXTo _ _ _ _ _ => .frameX
  | .frameXFrom _ _ _ _ _ => .frameX
  | .frameXErr _ _ _ _ _ => .frameX
  | .rxIdleStart => .rxByte
  | .rxIdleSkip _ => .rxByte
  | .rxSawstartM => .rxByte
  | .rxSawstartX => .rxByte
  | .rxSawstartBad _ => .rxByte
  | .rxSawgenTo => .rxByte
  | .rxSawgenFrom => .rxByte
  | .rxSawgenErr => .rxByte
  | .rxSawgenBad _ => .rxByte
  | .rxFlag _ => .rxByte
  | .rxSizeL _ => .rxByte
  | .rxSizeLOver _ => .rxByte
  | .rxCmdL _ => .rxByte
  | .rxCmdXLo _ => .rxByte
  | .rxCmdXHi _ => .rxByte
  | .rxSizeXLo _ => .rxByte
  | .rxSizeXHi _ => .rxByte
  | .rxSizeXOver _ => .rxByte
  | .rxPayload _ => .rxByte
  | .rxCsumOk _ => .rxByte
  | .rxCsumBad _ => .rxByte
  | .rst => .op
  | .push _ => .op
  | .csumL _ => .op
  | .csumX _ => .op
  | .encLegacy _ _ _ _ => .op
  | .encExtended _ _ _ _ => .op
  | .dec _ => .op
  | .feed _ => .pseudo

/-- Whether a request is one of the format: the two frame formats differ in their generation marker (R56). -/
def requestHasFormat (r : Request) (f : RowFormat) : Prop :=
  match f with
  | .frameL => ∃ rest, r = .frame (0x24 :: 0x4D :: rest)
  | .frameX => ∃ rest, r = .frame (0x24 :: 0x58 :: rest)
  | .rxByte => ∃ b, r = .rx b
  | .op => ∃ select x, r = .op select x
  | .pseudo => ∃ chunk, r = .feed chunk

/-- The encoding of `i` has the format of `i`'s row. -/
def Format.Statement (i : Instr) : Prop := requestHasFormat (encode i) (rowFormat i)

theorem Format.frameLTo (size cmd : Byte) (payload : List Byte) (checksum : Byte) :
    Format.Statement (.frameLTo size cmd payload checksum) := ⟨_, rfl⟩
theorem Format.frameLFrom (size cmd : Byte) (payload : List Byte) (checksum : Byte) :
    Format.Statement (.frameLFrom size cmd payload checksum) := ⟨_, rfl⟩
theorem Format.frameLErr (size cmd : Byte) (payload : List Byte) (checksum : Byte) :
    Format.Statement (.frameLErr size cmd payload checksum) := ⟨_, rfl⟩
theorem Format.frameXTo (flag : Byte) (cmd size : Half) (payload : List Byte) (checksum : Byte) :
    Format.Statement (.frameXTo flag cmd size payload checksum) := ⟨_, rfl⟩
theorem Format.frameXFrom (flag : Byte) (cmd size : Half) (payload : List Byte) (checksum : Byte) :
    Format.Statement (.frameXFrom flag cmd size payload checksum) := ⟨_, rfl⟩
theorem Format.frameXErr (flag : Byte) (cmd size : Half) (payload : List Byte) (checksum : Byte) :
    Format.Statement (.frameXErr flag cmd size payload checksum) := ⟨_, rfl⟩
theorem Format.rxIdleStart :
    Format.Statement (.rxIdleStart) := ⟨_, rfl⟩
theorem Format.rxIdleSkip (b : Byte) :
    Format.Statement (.rxIdleSkip b) := ⟨_, rfl⟩
theorem Format.rxSawstartM :
    Format.Statement (.rxSawstartM) := ⟨_, rfl⟩
theorem Format.rxSawstartX :
    Format.Statement (.rxSawstartX) := ⟨_, rfl⟩
theorem Format.rxSawstartBad (b : Byte) :
    Format.Statement (.rxSawstartBad b) := ⟨_, rfl⟩
theorem Format.rxSawgenTo :
    Format.Statement (.rxSawgenTo) := ⟨_, rfl⟩
theorem Format.rxSawgenFrom :
    Format.Statement (.rxSawgenFrom) := ⟨_, rfl⟩
theorem Format.rxSawgenErr :
    Format.Statement (.rxSawgenErr) := ⟨_, rfl⟩
theorem Format.rxSawgenBad (b : Byte) :
    Format.Statement (.rxSawgenBad b) := ⟨_, rfl⟩
theorem Format.rxFlag (b : Byte) :
    Format.Statement (.rxFlag b) := ⟨_, rfl⟩
theorem Format.rxSizeL (b : Byte) :
    Format.Statement (.rxSizeL b) := ⟨_, rfl⟩
theorem Format.rxSizeLOver (b : Byte) :
    Format.Statement (.rxSizeLOver b) := ⟨_, rfl⟩
theorem Format.rxCmdL (b : Byte) :
    Format.Statement (.rxCmdL b) := ⟨_, rfl⟩
theorem Format.rxCmdXLo (b : Byte) :
    Format.Statement (.rxCmdXLo b) := ⟨_, rfl⟩
theorem Format.rxCmdXHi (b : Byte) :
    Format.Statement (.rxCmdXHi b) := ⟨_, rfl⟩
theorem Format.rxSizeXLo (b : Byte) :
    Format.Statement (.rxSizeXLo b) := ⟨_, rfl⟩
theorem Format.rxSizeXHi (b : Byte) :
    Format.Statement (.rxSizeXHi b) := ⟨_, rfl⟩
theorem Format.rxSizeXOver (b : Byte) :
    Format.Statement (.rxSizeXOver b) := ⟨_, rfl⟩
theorem Format.rxPayload (b : Byte) :
    Format.Statement (.rxPayload b) := ⟨_, rfl⟩
theorem Format.rxCsumOk (b : Byte) :
    Format.Statement (.rxCsumOk b) := ⟨_, rfl⟩
theorem Format.rxCsumBad (b : Byte) :
    Format.Statement (.rxCsumBad b) := ⟨_, rfl⟩
theorem Format.rst :
    Format.Statement (.rst) := ⟨_, _, rfl⟩
theorem Format.push (b : Byte) :
    Format.Statement (.push b) := ⟨_, _, rfl⟩
theorem Format.csumL (bytes : List Byte) :
    Format.Statement (.csumL bytes) := ⟨_, _, rfl⟩
theorem Format.csumX (bytes : List Byte) :
    Format.Statement (.csumX bytes) := ⟨_, _, rfl⟩
theorem Format.encLegacy (dir : Dir) (flag : Byte) (cmd : Half) (payload : List Byte) :
    Format.Statement (.encLegacy dir flag cmd payload) := ⟨_, _, rfl⟩
theorem Format.encExtended (dir : Dir) (flag : Byte) (cmd : Half) (payload : List Byte) :
    Format.Statement (.encExtended dir flag cmd payload) := ⟨_, _, rfl⟩
theorem Format.dec (bytes : List Byte) :
    Format.Statement (.dec bytes) := ⟨_, _, rfl⟩
theorem Format.feed (bytes : List Byte) :
    Format.Statement (.feed bytes) := ⟨_, rfl⟩

end Sys2Proof.Laws
end

