-- ==== Sys2Proof/Tests/Slice0.lean ====
section
/-!
SUPPORT. Slice0: the model's own tests. Expected values are those spec/95_test_vectors.md prints (the vector's name stands
beside each test) or that the cited rule's example gives. Then, for every statement of Obligations.lean that has hypotheses,
a witness: a concrete state and operands that meet them together.
-/
namespace Sys2Proof.Tests
open Sys2Proof Sys2Proof.Machine

/-! ### Helpers -/

/-- The state a meaning answers, if it answers one. -/
def nextOf : Answer → Option State
  | .next t => some t
  | .fault _ => none
  | .refused _ => none

/-- The parser after a meaning. -/
def parserOf (a : Answer) : Option Parser := (nextOf a).map State.parser

/-- The phase and the offset after a meaning, and the outcomes it has in the stream. -/
def seenOf (a : Answer) : Option (Phase × Offset × List StreamOutcome) :=
  (nextOf a).map fun t => (t.parser.phase, t.parser.offset, t.out)

/-- The value a meaning returns. -/
def resultOf (a : Answer) : Option OpResult := (nextOf a).map State.result

/-- The refusal of a meaning. -/
def refusalOf : Answer → Option Refusal
  | .next _ => none
  | .fault _ => none
  | .refused r => some r

/-- The machine after power-on and one RST. -/
def fresh : State := { State.reset with past := [[]] }

/-- A parser that has reached a phase after `offset` bytes, all else as after reset. -/
def scanning (phase : Phase) (offset : Offset) : State :=
  { fresh with parser := { Parser.reset with phase := phase, offset := offset } }

/-- A parser inside a legacy frame to the device. -/
def legacyAt (phase : Phase) (offset : Offset) (cmd size rem : Half) (acc : Byte) (pbuf : Memory) : State :=
  { fresh with
    parser :=
      { Parser.reset with
        phase := phase, offset := offset, cmd := cmd, size := size, rem := rem, acc := acc, pbuf := pbuf } }

/-- A parser inside an extended frame from the device. -/
def extendedAt (phase : Phase) (offset : Offset) (flag : Byte) (cmd size : Half) (idx : ByteIndex) (rem : Half)
    (acc : Byte) (pbuf : Memory) : State :=
  { fresh with
    parser :=
      { phase := phase, offset := offset, gen := .extended, dir := .fromDevice, flag := flag, cmd := cmd, size := size,
        idx := idx, rem := rem, acc := acc, pbuf := pbuf } }

/-- The same machine with other capacities. -/
def withCapacity (s : State) (maxLegacy : Byte) (maxExt : Half) : State :=
  { s with params := { maxLegacy := maxLegacy, maxExt := maxExt } }

/-- The same machine with one request issued. -/
def issuing (s : State) (r : Request) : State := { s with pending := [r] }

/-- `FV` of section 0: the frame of `V`. -/
def frameV : RawFrame :=
  { gen := .legacy, dir := .toDevice, flag := 0, cmd := 100, size := 3, payload := [1, 2, 3], checksum := 0x67 }

/-- `FZ` of section 0: the frame of `Z`. -/
def frameZ : RawFrame :=
  { gen := .legacy, dir := .toDevice, flag := 0, cmd := 100, size := 0, payload := [], checksum := 0x64 }

/-- The frame of S2. -/
def frameX : RawFrame :=
  { gen := .extended, dir := .toDevice, flag := 0, cmd := 1000, size := 0, payload := [], checksum := 0x12 }

/-- The frame of E13. -/
def frameX2 : RawFrame :=
  { gen := .extended, dir := .fromDevice, flag := 0xA5, cmd := 0x1234, size := 2, payload := [0xDE, 0xAD],
    checksum := 0x19 }

/-- The frame of E14. -/
def frameX3 : RawFrame :=
  { gen := .extended, dir := .error, flag := 0xFF, cmd := 0xFFFF, size := 1, payload := [0], checksum := 0x7F }

/-- `V` of section 0. -/
def bytesV : List Byte := [0x24, 0x4D, 0x3C, 0x03, 0x64, 0x01, 0x02, 0x03, 0x67]

/-- `Z` of section 0. -/
def bytesZ : List Byte := [0x24, 0x4D, 0x3C, 0x00, 0x64, 0x64]

/-- S1.f after its sixth byte: one payload byte of three stored. -/
def inPayload : State := legacyAt .readingPayload 6 100 3 2 0x66 [(0, 1)]

/-- S1.f after its eighth byte: the checksum awaited. -/
def inChecksum : State := legacyAt .readingChecksum 8 100 3 0 0x67 [(0, 1), (1, 2), (2, 3)]

/-! ### Well-formedness: one ill-formed term for each check -/

theorem test_wf_frameL : Instr.wellFormed (.frameLTo 3 100 [1, 2, 3] 0x67) = true := by decide +kernel
theorem test_ill_frameL_size : Instr.wellFormed (.frameLTo 2 100 [1, 2, 3] 0x66) = false := by decide +kernel
theorem test_ill_frameL_checksum :
    Instr.wellFormed (.frameLFrom 3 100 [1, 2, 3] 0x61) = false ∧
      Instr.wellFormed (.frameLErr 3 100 [1, 2, 3] 0x61) = false := by decide +kernel
theorem test_wf_frameX : Instr.wellFormed (.frameXFrom 0xA5 0x1234 2 [0xDE, 0xAD] 0x19) = true := by decide +kernel
theorem test_ill_frameX_size : Instr.wellFormed (.frameXTo 0xA5 0x1234 0x0200 [0xDE, 0xAD] 0x19) = false := by decide +kernel
theorem test_ill_frameX_checksum :
    Instr.wellFormed (.frameXFrom 0xA5 0x1234 2 [0xDE, 0xAD] 0x18) = false ∧
      Instr.wellFormed (.frameXErr 0xA5 0x1234 2 [0xDE, 0xAD] 0x18) = false := by decide +kernel
theorem test_ill_rxIdleSkip : Instr.wellFormed (.rxIdleSkip 0x24) = false := by decide +kernel
theorem test_ill_rxSawstartBad :
    Instr.wellFormed (.rxSawstartBad 0x4D) = false ∧ Instr.wellFormed (.rxSawstartBad 0x58) = false ∧
      Instr.wellFormed (.rxSawstartBad 0x24) = true := by decide +kernel
theorem test_ill_rxSawgenBad :
    Instr.wellFormed (.rxSawgenBad 0x3C) = false ∧ Instr.wellFormed (.rxSawgenBad 0x3E) = false ∧
      Instr.wellFormed (.rxSawgenBad 0x21) = false ∧ Instr.wellFormed (.rxSawgenBad 0x24) = true := by decide +kernel
theorem test_ill_encLegacy :
    Instr.wellFormed (.encLegacy .toDevice 0 256 []) = false ∧
      Instr.wellFormed (.encLegacy .toDevice 0 255 []) = true := by decide +kernel

/-! ### Decoding: a word written out from the spec's encoding for every constructor -/

/-- FRAME rows from their wire bytes (R54, R55, R73): vectors E1, E3, E4, E11, E13, E14. -/
theorem test_decode_frame_rows :
    decode fresh.rxContext (.frame bytesV) = .ok (.frameLTo 3 100 [1, 2, 3] 0x67) ∧
    decode fresh.rxContext (.frame [0x24, 0x4D, 0x3E, 0x00, 0x00, 0x00]) = .ok (.frameLFrom 0 0 [] 0) ∧
    decode fresh.rxContext (.frame [0x24, 0x4D, 0x21, 0x01, 0xFF, 0xFF, 0x01]) = .ok (.frameLErr 1 255 [0xFF] 1) ∧
    decode fresh.rxContext (.frame [0x24, 0x58, 0x3C, 0x00, 0xE8, 0x03, 0x00, 0x00, 0x12]) =
      .ok (.frameXTo 0 1000 0 [] 0x12) ∧
    decode fresh.rxContext (.frame [0x24, 0x58, 0x3E, 0xA5, 0x34, 0x12, 0x02, 0x00, 0xDE, 0xAD, 0x19]) =
      .ok (.frameXFrom 0xA5 0x1234 2 [0xDE, 0xAD] 0x19) ∧
    decode fresh.rxContext (.frame [0x24, 0x58, 0x21, 0xFF, 0xFF, 0xFF, 0x01, 0x00, 0x00, 0x7F]) =
      .ok (.frameXErr 0xFF 0xFFFF 1 [0] 0x7F) := by decide +kernel

/-- What DEC refuses is no FRAME row: vectors S1.d, D19, D20. -/
theorem test_decode_not_a_frame :
    decode fresh.rxContext (.frame [0x24, 0x4D, 0x3C, 0x03, 0x64, 0x01, 0x02, 0x03, 0x61]) =
      .error (.notAFrame .checksumMismatch) ∧
    decode fresh.rxContext (.frame [0x24, 0x4D, 0x3C, 0x03, 0x64, 0x01, 0x02, 0x03]) =
      .error (.notAFrame .truncatedFrame) ∧
    decode fresh.rxContext (.frame (bytesV ++ [0x24])) = .error (.notAFrame .sizeMismatch) := by decide +kernel

/-- The scanning rows of R133, each byte in its context. -/
theorem test_decode_scanning_rows :
    decode (scanning .idle 0).rxContext (.rx 0x24) = .ok .rxIdleStart ∧
    decode (scanning .idle 0).rxContext (.rx 0x4D) = .ok (.rxIdleSkip 0x4D) ∧
    decode (scanning .sawStart 1).rxContext (.rx 0x4D) = .ok .rxSawstartM ∧
    decode (scanning .sawStart 1).rxContext (.rx 0x58) = .ok .rxSawstartX ∧
    decode (scanning .sawStart 1).rxContext (.rx 0x24) = .ok (.rxSawstartBad 0x24) ∧
    decode (scanning .sawGenerationMarker 2).rxContext (.rx 0x3C) = .ok .rxSawgenTo ∧
    decode (scanning .sawGenerationMarker 2).rxContext (.rx 0x3E) = .ok .rxSawgenFrom ∧
    decode (scanning .sawGenerationMarker 2).rxContext (.rx 0x21) = .ok .rxSawgenErr ∧
    decode (scanning .sawGenerationMarker 2).rxContext (.rx 0x3F) = .ok (.rxSawgenBad 0x3F) := by decide +kernel

/-- The legacy rows of R133; the size byte on both sides of capacity (Q1, Q2 of section 5). -/
theorem test_decode_legacy_rows :
    decode (withCapacity (legacyAt .readingSize 3 0 0 0 0 []) 16 65535).rxContext (.rx 0x10) = .ok (.rxSizeL 0x10) ∧
    decode (withCapacity (legacyAt .readingSize 3 0 0 0 0 []) 16 65535).rxContext (.rx 0x11) =
      .ok (.rxSizeLOver 0x11) ∧
    decode (legacyAt .readingSize 3 0 0 0 0 []).rxContext (.rx 0xFF) = .ok (.rxSizeL 0xFF) ∧
    decode (legacyAt .readingCommand 4 0 3 0 3 []).rxContext (.rx 0x64) = .ok (.rxCmdL 0x64) ∧
    decode inPayload.rxContext (.rx 0x24) = .ok (.rxPayload 0x24) ∧
    decode inChecksum.rxContext (.rx 0x67) = .ok (.rxCsumOk 0x67) ∧
    decode inChecksum.rxContext (.rx 0x61) = .ok (.rxCsumBad 0x61) := by decide +kernel

/-- The extended rows of R133; the high size byte on both sides of capacity (Q3, Q4 of section 5). -/
theorem test_decode_extended_rows :
    decode (extendedAt .readingFlag 3 0 0 0 .low 0 0 []).rxContext (.rx 0xA5) = .ok (.rxFlag 0xA5) ∧
    decode (extendedAt .readingCommand 4 0xA5 0 0 .low 0 0x60 []).rxContext (.rx 0x34) = .ok (.rxCmdXLo 0x34) ∧
    decode (extendedAt .readingCommand 5 0xA5 0x34 0 .high 0 0x31 []).rxContext (.rx 0x12) = .ok (.rxCmdXHi 0x12) ∧
    decode (extendedAt .readingSize 6 0xA5 0x1234 0 .low 0 0x0E []).rxContext (.rx 0x02) = .ok (.rxSizeXLo 0x02) ∧
    decode (withCapacity (extendedAt .readingSize 7 0 1 0 .high 0 0 []) 255 256).rxContext (.rx 0x01) =
      .ok (.rxSizeXHi 0x01) ∧
    decode (withCapacity (extendedAt .readingSize 7 0 1 1 .high 0 0 []) 255 256).rxContext (.rx 0x01) =
      .ok (.rxSizeXOver 0x01) := by decide +kernel

/-- The select codes of R74, and what has none (U6, R17, U3). -/
theorem test_decode_operations :
    decode fresh.rxContext (.op 0b000 .none) = .ok .rst ∧
    decode fresh.rxContext (.op 0b001 (.byte 0x24)) = .ok (.push 0x24) ∧
    decode fresh.rxContext (.op 0b010 (.bytes [3, 0x64])) = .ok (.csumL [3, 0x64]) ∧
    decode fresh.rxContext (.op 0b011 (.bytes [0, 0xE8])) = .ok (.csumX [0, 0xE8]) ∧
    decode fresh.rxContext (.op 0b100 (.enc 0b0 0b10 0 0xFF [0xFF])) = .ok (.encLegacy .error 0 0xFF [0xFF]) ∧
    decode fresh.rxContext (.op 0b100 (.enc 0b1 0b01 0xA5 0x1234 [])) = .ok (.encExtended .fromDevice 0xA5 0x1234 []) ∧
    decode fresh.rxContext (.op 0b101 (.bytes bytesV)) = .ok (.dec bytesV) ∧
    decode fresh.rxContext (.feed bytesV) = .ok (.feed bytesV) := by decide +kernel

theorem test_decode_refuses_operations :
    decode fresh.rxContext (.op 0b110 .none) = .error (.unusedSelect 6) ∧
    decode fresh.rxContext (.op 0b111 (.byte 0)) = .error (.unusedSelect 7) ∧
    decode fresh.rxContext (.op 0b100 (.enc 0 0b11 0 0 [])) = .error .illegalDirectionCode ∧
    decode fresh.rxContext (.op 0b100 (.enc 0 0 0 0x100 [])) = .error .legacyCommandTooWide ∧
    decode fresh.rxContext (.op 0b001 .none) = .error .operandShape ∧
    decode (scanning .sawDirection 0).rxContext (.rx 0x3C) = .error .unreachableContext := by decide +kernel

/-- Table words (log 2): FRAME headers first wire byte most significant (R73), marker bytes, select codes. -/
theorem test_table_words :
    decodeTableWord 40 0x244D3E0000 = some (.frameLFrom 0 0 [] 0) ∧
    decodeTableWord 64 0x24583C0000000000 = some (.frameXTo 0 0 0 [] 0) ∧
    decodeTableWord 24 0x244D21 = some (.frameLErr 0 0 [] 0) ∧
    decodeTableWord 8 0x24 = some .rxIdleStart ∧ decodeTableWord 8 0x58 = some .rxSawstartX ∧
    decodeTableWord 8 0x21 = some .rxSawgenErr ∧ decodeTableWord 8 0 = some .rst ∧
    decodeTableWord 8 1 = some (.push 0) ∧ decodeTableWord 8 5 = some (.dec []) ∧ decodeTableWord 8 7 = none := by
  decide +kernel

/-! ### One step of each instruction -/

/-- P2 and P3, one step each: a byte that is no marker, with its own offset. -/
theorem test_push_errors :
    seenOf (exec (.push 0x41) (scanning .sawStart 1)) = some (.idle, 2, [.error .invalidPreamble 1]) ∧
    seenOf (exec (.push 0x3F) (scanning .sawGenerationMarker 2)) =
      some (.idle, 3, [.error .unsupportedDirectionMarker 2]) := by decide +kernel

/-- The offset wraps (R15, R178). -/
theorem test_push_offset_wraps :
    seenOf (exec (.push 0x00) (scanning .idle 0xFFFFFFFFFFFFFFFF)) = some (.idle, 0, []) := by decide +kernel

theorem test_rx_idle :
    seenOf (exec .rxIdleStart (scanning .idle 4)) = some (.sawStart, 5, []) ∧
    seenOf (exec (.rxIdleSkip 0x4D) (scanning .idle 2)) = some (.idle, 3, []) := by decide +kernel

/-- Traces of S1.f and S2.d, second byte; V6.1, second byte: a second start marker is consumed. -/
theorem test_rx_sawstart :
    (parserOf (exec .rxSawstartM (extendedAt .sawStart 1 0 0 0 .low 0 0 []))).map (fun p => (p.phase, p.gen)) =
      some (.sawGenerationMarker, .legacy) ∧
    (parserOf (exec .rxSawstartX (scanning .sawStart 1))).map (fun p => (p.phase, p.gen)) =
      some (.sawGenerationMarker, .extended) ∧
    seenOf (exec (.rxSawstartBad 0x24) (scanning .sawStart 1)) = some (.idle, 2, [.error .invalidPreamble 1]) := by
  decide +kernel

/-- R114: the direction, the cleared checksum and byte index, and the dispatch on the generation (P4). -/
theorem test_rx_sawgen :
    (parserOf (exec .rxSawgenTo (legacyAt .sawGenerationMarker 2 9 9 9 9 []))).map
      (fun p => (p.phase, p.dir, p.acc, p.idx)) = some (.readingSize, .toDevice, 0, .low) ∧
    (parserOf (exec .rxSawgenFrom (legacyAt .sawGenerationMarker 2 9 9 9 9 []))).map
      (fun p => (p.phase, p.dir, p.acc, p.idx)) = some (.readingSize, .fromDevice, 0, .low) ∧
    (parserOf (exec .rxSawgenErr (extendedAt .sawGenerationMarker 2 9 9 9 .high 9 9 []))).map
      (fun p => (p.phase, p.dir, p.acc, p.idx)) = some (.readingFlag, .error, 0, .low) ∧
    seenOf (exec (.rxSawgenBad 0x24) (scanning .sawGenerationMarker 2)) =
      some (.idle, 3, [.error .unsupportedDirectionMarker 2]) := by decide +kernel

/-- Third trace of section 2, bytes A5, 34 and 12. -/
theorem test_rx_flag_and_command :
    nextOf (exec (.rxFlag 0xA5) (extendedAt .readingFlag 3 0 0 0 .low 0 0 [])) =
      some { extendedAt .readingCommand 4 0xA5 0 0 .low 0 0x60 [] with result := .outcomes [] } ∧
    nextOf (exec (.rxCmdXLo 0x34) (extendedAt .readingCommand 4 0xA5 0xFFFF 0 .low 0 0x60 [])) =
      some { extendedAt .readingCommand 5 0xA5 0xFF34 0 .high 0 0x31 [] with result := .outcomes [] } ∧
    nextOf (exec (.rxCmdXHi 0x12) (extendedAt .readingCommand 5 0xA5 0xFF34 0 .high 0 0x31 [])) =
      some { extendedAt .readingSize 6 0xA5 0x1234 0 .low 0 0x0E [] with result := .outcomes [] } := by decide +kernel

/-- Third trace of section 2, the size bytes 02 and 00; then S2.d's high size byte, which completes a size of 0. -/
theorem test_rx_size_extended :
    nextOf (exec (.rxSizeXLo 0x02) (extendedAt .readingSize 6 0xA5 0x1234 0xFFFF .low 0 0x0E [])) =
      some { extendedAt .readingSize 7 0xA5 0x1234 0xFF02 .high 0 0xD7 [] with result := .outcomes [] } ∧
    nextOf (exec (.rxSizeXHi 0x00) (extendedAt .readingSize 7 0xA5 0x1234 0xFF02 .high 0 0xD7 [])) =
      some { extendedAt .readingPayload 8 0xA5 0x1234 2 .low 2 0x74 [] with result := .outcomes [] } ∧
    nextOf (exec (.rxSizeXHi 0x00) (extendedAt .readingSize 7 0 1000 0 .high 9 0x65 [])) =
      some { extendedAt .readingChecksum 8 0 1000 0 .low 0 0x12 [] with result := .outcomes [] } := by decide +kernel

/-- Q1 and Q3: a size above capacity, on the byte at which it is known. -/
theorem test_rx_size_over :
    seenOf (exec (.rxSizeLOver 0x20) (withCapacity (legacyAt .readingSize 3 0 0 0 0 []) 16 65535)) =
      some (.idle, 4, [.error .sizeMismatch 3]) ∧
    (parserOf (exec (.rxSizeLOver 0x20) (withCapacity (legacyAt .readingSize 3 0 0 0 0 []) 16 65535))).map
      (fun p => (p.size, p.acc)) = some (0x0020, 0x20) ∧
    seenOf (exec (.rxSizeXOver 0x01) (withCapacity (extendedAt .readingSize 7 0 1 1 .high 0 0 []) 255 256)) =
      some (.idle, 8, [.error .sizeMismatch 7]) := by decide +kernel

/-- Trace of S1.f, size and command; P5: a size of 0 skips the payload. -/
theorem test_rx_legacy_header :
    nextOf (exec (.rxSizeL 0x03) (legacyAt .readingSize 3 0 0 0 0 [])) =
      some { legacyAt .readingCommand 4 0 3 0 0x03 [] with result := .outcomes [] } ∧
    nextOf (exec (.rxCmdL 0x64) (legacyAt .readingCommand 4 0 3 0 0x03 [])) =
      some { legacyAt .readingPayload 5 100 3 3 0x67 [] with result := .outcomes [] } ∧
    nextOf (exec (.rxCmdL 0x64) (legacyAt .readingCommand 4 0 0 9 0x00 [])) =
      some { legacyAt .readingChecksum 5 100 0 0 0x64 [] with result := .outcomes [] } := by decide +kernel

/-- Trace of S1.f, second and third payload byte; third trace of section 2, the byte DE. -/
theorem test_rx_payload :
    nextOf (exec (.rxPayload 0x02) inPayload) =
      some { legacyAt .readingPayload 7 100 3 1 0x64 [(0, 1), (1, 2)] with result := .outcomes [] } ∧
    nextOf (exec (.rxPayload 0x03) (legacyAt .readingPayload 7 100 3 1 0x64 [(0, 1), (1, 2)])) =
      some { inChecksum with result := .outcomes [] } ∧
    nextOf (exec (.rxPayload 0xDE) (extendedAt .readingPayload 8 0xA5 0x1234 2 .low 2 0x74 [])) =
      some { extendedAt .readingPayload 9 0xA5 0x1234 2 .low 1 0x1D [(0, 0xDE)] with result := .outcomes [] } := by
  decide +kernel

/-- The last byte of S1.f and of S1.e. -/
theorem test_rx_checksum :
    seenOf (exec (.rxCsumOk 0x67) inChecksum) = some (.idle, 9, [.frame frameV]) ∧
    seenOf (exec (.rxCsumBad 0x61) inChecksum) = some (.idle, 9, [.error .checksumMismatch 8]) := by decide +kernel

/-- An RXBYTE row outside its context is refused (log 9), a push in an unreachable phase too (log 10). -/
theorem test_rows_refused :
    refusalOf (exec .rxSawstartM (scanning .idle 0)) = some .rowNotSelected ∧
    refusalOf (exec (.rxCsumOk 0x61) inChecksum) = some .rowNotSelected ∧
    refusalOf (exec (.push 0) (scanning .sawDirection 3)) = some .unreachableState := by decide +kernel

/-- FRAME rows from `Idle`: E1, E3, E4 as the parser receives them, and a wrong checksum field (S1.e). -/
theorem test_frameL_rows :
    seenOf (exec (.frameLTo 3 100 [1, 2, 3] 0x67) fresh) = some (.idle, 9, [.frame frameV]) ∧
    seenOf (exec (.frameLTo 3 100 [1, 2, 3] 0x61) fresh) = some (.idle, 9, [.error .checksumMismatch 8]) ∧
    seenOf (exec (.frameLFrom 0 0 [] 0) fresh) =
      some (.idle, 6, [.frame { frameZ with dir := .fromDevice, cmd := 0, checksum := 0 }]) ∧
    seenOf (exec (.frameLErr 1 255 [0xFF] 1) fresh) =
      some (.idle, 7, [.frame { frameZ with
        dir := .error, cmd := 255, size := 1, payload := [0xFF], checksum := 1 }]) := by decide +kernel

/-- S2.d, the third trace of section 2, P16; and S2.d's frame where the parser is not in `Idle` (R173). -/
theorem test_frameX_rows :
    seenOf (exec (.frameXTo 0 1000 0 [] 0x12) fresh) = some (.idle, 9, [.frame frameX]) ∧
    seenOf (exec (.frameXFrom 0xA5 0x1234 2 [0xDE, 0xAD] 0x19) fresh) = some (.idle, 11, [.frame frameX2]) ∧
    seenOf (exec (.frameXErr 0xFF 0xFFFF 1 [0] 0x7F) fresh) =
      some (.idle, 10, [.frame frameX3]) ∧
    seenOf (exec (.frameXTo 0 1000 0 [] 0x12) (scanning .sawStart 1)) =
      some (.idle, 10, [.error .invalidPreamble 1]) := by decide +kernel

/-- S1.g: MSP's printed string then the corrected one. -/
theorem test_feed_two_frames :
    seenOf (exec (.feed ([0x24, 0x4D, 0x3C, 0x03, 0x64, 0x01, 0x02, 0x03, 0x61] ++ bytesV)) fresh) =
      some (.idle, 18, [.error .checksumMismatch 8, .frame frameV]) := by decide +kernel

/-- V6.1 and V6.14. -/
theorem test_feed_resynchronises :
    seenOf (exec (.feed (0x24 :: bytesZ)) fresh) = some (.idle, 7, [.error .invalidPreamble 1]) ∧
    seenOf (exec (.feed ([0x24, 0x4D, 0x3F, 0x03, 0x64, 0x01, 0x24, 0x03, 0x43] ++ bytesZ)) fresh) =
      some (.idle, 15, [.error .unsupportedDirectionMarker 2, .error .invalidPreamble 7, .frame frameZ]) := by decide +kernel

/-- Program D, step 2: reset in the middle of a frame. -/
theorem test_rst :
    nextOf (exec .rst inPayload) = some { legacyAt .idle 0 100 3 2 0x66 [(0, 1)] with past := [[], []] } := by decide +kernel

/-- S1.b and K9. -/
theorem test_csumL :
    resultOf (exec (.csumL [0x03, 0x64, 0x01, 0x02, 0x03]) fresh) = some (.byte 0x67) ∧
    resultOf (exec (.csumL [0xFF, 0xFF]) fresh) = some (.byte 0x00) := by decide +kernel

/-- K17 and K18 (the catalogue's check value). -/
theorem test_csumX :
    resultOf (exec (.csumX [0xA5, 0x34, 0x12, 0x02, 0x00, 0xDE, 0xAD]) fresh) = some (.byte 0x19) ∧
    resultOf (exec (.csumX [0x31, 0x32, 0x33, 0x34, 0x35, 0x36, 0x37, 0x38, 0x39]) fresh) = some (.byte 0xBC) := by
  decide +kernel

/-- E9 (the flag is ignored) and E10 (refused). -/
theorem test_encLegacy :
    resultOf (exec (.encLegacy .toDevice 0xA5 100 [1, 2, 3]) fresh) = some (.bytes bytesV) ∧
    refusalOf (exec (.encLegacy .toDevice 0 256 []) fresh) = some .legacyCommandTooWide := by decide +kernel

/-- E8. -/
theorem test_encLegacy_too_large :
    resultOf (exec (.encLegacy .toDevice 0 7 (List.replicate 256 0)) fresh) = some (.failure .payloadTooLarge) := by
  decide +kernel

/-- E13 and E16. -/
theorem test_encExtended :
    resultOf (exec (.encExtended .fromDevice 0xA5 0x1234 [0xDE, 0xAD]) fresh) =
      some (.bytes [0x24, 0x58, 0x3E, 0xA5, 0x34, 0x12, 0x02, 0x00, 0xDE, 0xAD, 0x19]) ∧
    resultOf (exec (.encExtended .toDevice 0x24 0x2424 [0x24]) fresh) =
      some (.bytes [0x24, 0x58, 0x3C, 0x24, 0x24, 0x24, 0x01, 0x00, 0x24, 0xC2]) := by decide +kernel

/-- D34 and D25: the two successes. -/
theorem test_dec_success :
    resultOf (exec (.dec [0x24, 0x58, 0x3E, 0xA5, 0x34, 0x12, 0x02, 0x00, 0xDE, 0xAD, 0x19]) fresh) =
      some (.frame frameX2) ∧
    resultOf (exec (.dec [0x24, 0x4D, 0x3C, 0x03, 0x24, 0x24, 0x4D, 0x3C, 0x72]) fresh) =
      some (.frame { frameV with cmd := 36, payload := [0x24, 0x4D, 0x3C], checksum := 0x72 }) := by decide +kernel

/-- D1, D3, D12, D21, D33: the five failures. -/
theorem test_dec_failures :
    resultOf (exec (.dec []) fresh) = some (.failure .truncatedFrame) ∧
    resultOf (exec (.dec [0x00]) fresh) = some (.failure .invalidPreamble) ∧
    resultOf (exec (.dec [0x24, 0x4D, 0x24]) fresh) = some (.failure .unsupportedDirectionMarker) ∧
    resultOf (exec (.dec [0x24, 0x4D, 0x3C, 0x02, 0x64, 0x01, 0x02, 0x03, 0x67]) fresh) =
      some (.failure .sizeMismatch) ∧
    resultOf (exec (.dec [0x24, 0x58, 0x3C, 0x00, 0x03, 0xE8, 0x00, 0x00, 0x12]) fresh) =
      some (.failure .checksumMismatch) := by decide +kernel

/-! ### Witnesses: states and operands that meet a statement's hypotheses -/

/-- A parser still scanning, with nothing received, is in the invariant. -/
theorem inv_scanning (phase : Phase) (offset : Offset)
    (h : phase = .idle ∨ phase = .sawStart ∨ phase = .sawGenerationMarker) : (scanning phase offset).Inv := by
  refine ⟨Parser.phaseOk_of_scanning h, ⟨rfl, by simp [scanning, Parser.reset]⟩, ?_, ?_⟩ <;>
    simp [scanning, fresh, State.reset]

theorem inv_inPayload : inPayload.Inv := by
  refine ⟨(Parser.phaseOk_readingPayload rfl).2 ⟨?_, fun _ => by decide +kernel, by decide, by decide, [1], rfl, by decide⟩,
    ⟨rfl, ?_⟩, ?_, ?_⟩
  · show _ ≤ _; decide
  all_goals simp [inPayload, legacyAt, fresh, State.reset, Params.pbufCap, Params.default]

theorem verified_frameV : frameV.Verified := ⟨rfl, by decide +kernel, fun _ => by decide⟩

theorem verified_frameX : frameX.Verified := ⟨rfl, by decide +kernel, fun h => nomatch h⟩

/-- StepRunsTheDecodedRequest: nothing pending, a request that is an instruction, one that is none. -/
theorem test_witness_step :
    fresh.pending = [] ∧
    ((issuing fresh (.op 1 (.byte 0x24))).pending = [.op 1 (.byte 0x24)] ∧
      decode (issuing fresh (.op 1 (.byte 0x24))).rxContext (.op 1 (.byte 0x24)) = .ok (.push 0x24)) ∧
    ((issuing fresh (.op 6 .none)).pending = [.op 6 .none] ∧
      decode (issuing fresh (.op 6 .none)).rxContext (.op 6 .none) = .error (.unusedSelect 6)) := by decide +kernel

/-- FrameRowsRoundTrip, FrameRowsAreFedBytes. -/
theorem test_witness_frame_rows :
    Instr.wellFormed (.frameLTo 3 100 [1, 2, 3] 0x67) = true ∧
    encode (.frameLTo 3 100 [1, 2, 3] 0x67) = .frame bytesV ∧
    Instr.wellFormed (.frameXTo 0 1000 0 [] 0x12) = true ∧
    encode (.frameXTo 0 1000 0 [] 0x12) = .frame [0x24, 0x58, 0x3C, 0x00, 0xE8, 0x03, 0x00, 0x00, 0x12] := by decide +kernel

/-- OperationsRoundTrip: the widest legacy command, and a chunk. -/
theorem test_witness_operations :
    Instr.wellFormed (.encLegacy .error 0 255 []) = true ∧
    encode (.encLegacy .error 0 255 []) = .op 4 (.enc 0 2 0 255 []) ∧
    Instr.wellFormed (.feed [0x24]) = true ∧ encode (.feed [0x24]) = .feed [0x24] := by decide +kernel

/-- DecodedRequestsReencode, PushRunsTheSelectedRow: what decodes, of each kind (see also the decode tests). -/
theorem test_witness_decoded :
    decode inChecksum.rxContext (.rx 0x61) = .ok (.rxCsumBad 0x61) ∧
    decode inChecksum.rxContext (.op 0 .none) = .ok .rst ∧ decode inChecksum.rxContext (.feed []) = .ok (.feed []) ∧
    decode inChecksum.rxContext (.frame bytesZ) = .ok (.frameLTo 0 100 [] 0x64) := by decide +kernel

/-- HeldContextsSelectOneRow and UnreachablePhasesRefusePush: held, and the three ways not to be. -/
theorem test_witness_contexts :
    heldContext (legacyAt .readingPayload 6 100 3 1 0x66 []).rxContext = true ∧
    heldContext (legacyAt .readingPayload 6 100 3 0 0x66 []).rxContext = false ∧
    heldContext (extendedAt .readingFlag 3 0 0 0 .low 0 0 []).rxContext = true ∧
    heldContext (legacyAt .readingFlag 3 0 0 0 0 []).rxContext = false ∧
    heldContext (scanning .sawDirection 3).rxContext = false := by decide +kernel

/-- UnusedSelectsAreRefused: both codes. -/
theorem test_witness_unused_selects :
    (6 ≤ (6 : BitVec 3).toNat ∧ (issuing fresh (.op 6 .none)).pending = .op 6 .none :: []) ∧
    (6 ≤ (7 : BitVec 3).toNat ∧ (issuing fresh (.op 7 (.byte 0))).pending = .op 7 (.byte 0) :: []) := by decide +kernel

/-- PushConsumesEveryByte, FeedConsumesEveryByte, InvStatesNeverFault, RstDiscardsFrameInProgress: states of the
invariant, in a scanning phase and inside a frame. -/
theorem test_witness_inv : (scanning .sawStart 1).Inv ∧ inPayload.Inv :=
  ⟨inv_scanning _ _ (.inr (.inl rfl)), inv_inPayload⟩

/-- PushFrame: a push that stores nothing, and one that stores. -/
theorem test_witness_push_frame :
    (∃ t, exec (.push 0x24) (scanning .idle 0) = .next t) ∧ ∃ t, exec (.push 0x02) inPayload = .next t :=
  ⟨⟨_, rfl⟩, ⟨_, rfl⟩⟩

/-- UnselectedRowsAreRefused: a row in another phase, and the checksum rows with each other's byte. -/
theorem test_witness_unselected_rows :
    (encode .rxSawstartM = .rx 0x4D ∧ decode (scanning .idle 0).rxContext (.rx 0x4D) ≠ .ok .rxSawstartM) ∧
    (encode (.rxCsumOk 0x61) = .rx 0x61 ∧ decode inChecksum.rxContext (.rx 0x61) ≠ .ok (.rxCsumOk 0x61)) := by decide +kernel

/-- IdleScansForStartMarker, SawStartReadsGeneration, SawGenerationMarkerReadsDirection: the phases, and bytes of each
clause at the ends of their ranges. -/
theorem test_witness_scanning :
    ((scanning .idle 0).parser.phase = .idle ∧ (0x00 : Byte) ≠ 0x24 ∧ (0xFF : Byte) ≠ 0x24) ∧
    ((scanning .sawStart 1).parser.phase = .sawStart ∧ (0x24 : Byte) ≠ 0x4D ∧ (0x24 : Byte) ≠ 0x58) ∧
    ((scanning .sawGenerationMarker 2).parser.phase = .sawGenerationMarker ∧ (0x3F : Byte) ≠ 0x3C ∧
      (0x3F : Byte) ≠ 0x3E ∧ (0x3F : Byte) ≠ 0x21) := by decide +kernel

/-- FlagByteIsTaken. -/
theorem test_witness_flag :
    let s := extendedAt .readingFlag 3 0 0 0 .low 0 0 []
    s.parser.phase = .readingFlag ∧ s.parser.gen = .extended := by decide +kernel

/-- LegacySizeIsTakenOrOverCapacity: both clauses, where they meet. -/
theorem test_witness_legacy_size :
    let s := withCapacity (legacyAt .readingSize 3 0 0 0 0 []) 16 65535
    s.parser.phase = .readingSize ∧ s.parser.gen = .legacy ∧
      (16 : Byte).toNat ≤ s.params.maxLegacy.toNat ∧ s.params.maxLegacy.toNat < (17 : Byte).toNat := by decide +kernel

/-- LegacyCommandIsTaken: with and without a payload to come. -/
theorem test_witness_legacy_command :
    (legacyAt .readingCommand 4 0 3 0 3 []).parser.phase = .readingCommand ∧
    (legacyAt .readingCommand 4 0 3 0 3 []).parser.gen = .legacy ∧
    (legacyAt .readingCommand 4 0 3 0 3 []).parser.size ≠ 0 ∧
    (legacyAt .readingCommand 4 0 0 0 0 []).parser.size = 0 := by decide +kernel

/-- ExtendedCommandIsTaken: both byte indices. -/
theorem test_witness_extended_command (idx : ByteIndex) :
    let s := extendedAt .readingCommand 4 0 0 0 idx 0 0 []
    s.parser.phase = .readingCommand ∧ s.parser.gen = .extended ∧ s.parser.idx = idx := ⟨rfl, rfl, rfl⟩

/-- ExtendedSizeIsTakenOrOverCapacity: both byte indices, and the completed size on both sides of capacity. -/
theorem test_witness_extended_size :
    (extendedAt .readingSize 6 0 0 1 .low 0 0 []).parser.idx = .low ∧
    let s := withCapacity (extendedAt .readingSize 6 0 0 1 .high 0 0 []) 255 0x0101
    (s.parser.phase = .readingSize ∧ s.parser.gen = .extended ∧ s.parser.idx = .high) ∧
      ((0x01 : Byte) ++ s.parser.size.extractLsb' 0 8).toNat ≤ s.params.maxExt.toNat ∧
      s.params.maxExt.toNat < ((0x02 : Byte) ++ s.parser.size.extractLsb' 0 8).toNat := by decide +kernel

/-- PayloadByteIsStored: the first, and the last index the capacity allows. -/
theorem test_witness_payload :
    (inPayload.parser.phase = .readingPayload ∧ inPayload.parser.rem ≠ 0 ∧
      (inPayload.parser.size - inPayload.parser.rem).toNat < inPayload.params.pbufCap) ∧
    let s := withCapacity (legacyAt .readingPayload 9 0 16 1 0 []) 16 0
    s.parser.phase = .readingPayload ∧ s.parser.rem ≠ 0 ∧
      (s.parser.size - s.parser.rem).toNat < s.params.pbufCap := by decide +kernel

/-- MatchingChecksumEmitsFrame: with a payload and without one. -/
theorem test_witness_matching_checksum :
    (inChecksum.parser.phase = .readingChecksum ∧ [(1 : Byte), 2, 3].length = inChecksum.parser.size.toNat ∧
      inChecksum.parser.size.toNat ≤ inChecksum.params.pbufCap ∧
      ∀ a, a < [(1 : Byte), 2, 3].length → Memory.read inChecksum.parser.pbuf a = [(1 : Byte), 2, 3][a]?) ∧
    let s := legacyAt .readingChecksum 5 100 0 0 0x64 []
    s.parser.phase = .readingChecksum ∧ ([] : List Byte).length = s.parser.size.toNat ∧
      s.parser.size.toNat ≤ s.params.pbufCap ∧
      ∀ a, a < ([] : List Byte).length → Memory.read s.parser.pbuf a = ([] : List Byte)[a]? := by decide +kernel

/-- WrongChecksumRaisesMismatch. -/
theorem test_witness_wrong_checksum :
    inChecksum.parser.phase = .readingChecksum ∧ (0x24 : Byte) ≠ inChecksum.parser.acc := by decide +kernel

/-- ErrorEntryIsPrecise: a marker violation, and a size above capacity. -/
theorem test_witness_error_entry :
    (∃ t, exec (.push 0x24) (scanning .sawStart 1) = .next t ∧
      t.out = (scanning .sawStart 1).out ++ [.error .invalidPreamble 1]) ∧
    ∃ t, exec (.push 0x11) (withCapacity (legacyAt .readingSize 3 0 0 0 0 []) 16 65535) = .next t ∧
      t.out = (withCapacity (legacyAt .readingSize 3 0 0 0 0 []) 16 65535).out ++ [.error .sizeMismatch 3] :=
  ⟨⟨_, rfl, rfl⟩, ⟨_, rfl, rfl⟩⟩

/-- DefaultCapacityNeverOverflows: the largest size byte of each generation. -/
theorem test_witness_default_capacity :
    ((legacyAt .readingSize 3 0 0 0 0 []).params = Params.default ∧
      ∃ t, exec (.push 0xFF) (legacyAt .readingSize 3 0 0 0 0 []) = .next t) ∧
    (extendedAt .readingSize 7 0 0 0xFF .high 0 0 []).params = Params.default ∧
      ∃ t, exec (.push 0xFF) (extendedAt .readingSize 7 0 0 0xFF .high 0 0 []) = .next t :=
  ⟨⟨rfl, ⟨_, rfl⟩⟩, rfl, ⟨_, rfl⟩⟩

/-- FeedIsPushesInOrder: a push that answers, one refused, one that faults. -/
theorem test_witness_feed_in_order :
    (∃ t, exec (.push 0x24) fresh = .next t) ∧
    exec (.push 0x24) (scanning .sawDirection 3) = .refused .unreachableState ∧
    exec (.push 0x67) (legacyAt .readingChecksum 8 100 3 0 0x67 []) = .fault .pbufUnwritten :=
  ⟨⟨_, rfl⟩, rfl, rfl⟩

/-- SilentSkippingInIdle. -/
theorem test_witness_silent :
    (scanning .idle 7).parser.phase = .idle ∧ (0x24 : Byte) ∉ [(0x00 : Byte), 0xFF, 0x4D, 0x3C] := by decide +kernel

/-- LegacyFrameRowsDeliver: no payload, and one that fills the capacity. -/
theorem test_witness_legacy_frames :
    (fresh.parser.phase = .idle ∧ ([] : List Byte).length = (0 : Byte).toNat ∧
      (0 : Byte).toNat ≤ fresh.params.maxLegacy.toNat ∧ (0x64 : Byte) = xorFold ([0, 0x64] ++ [])) ∧
    ([(1 : Byte), 2, 3].length = (3 : Byte).toNat ∧
      (3 : Byte).toNat ≤ (withCapacity fresh 3 0).params.maxLegacy.toNat ∧
      (0x67 : Byte) = xorFold ([3, 0x64] ++ [1, 2, 3])) := by decide +kernel

/-- ExtendedFrameRowsDeliver: no payload, and one that fills the capacity. -/
theorem test_witness_extended_frames :
    (fresh.parser.phase = .idle ∧ ([] : List Byte).length = (0 : Half).toNat ∧
      (0 : Half).toNat ≤ fresh.params.maxExt.toNat ∧ (0x12 : Byte) = crc8 (coveredX 0 1000 0 [])) ∧
    ([(0xDE : Byte), 0xAD].length = (2 : Half).toNat ∧ (2 : Half).toNat ≤ (withCapacity fresh 0 2).params.maxExt.toNat ∧
      (0x19 : Byte) = crc8 (coveredX 0xA5 0x1234 2 [0xDE, 0xAD])) := by decide +kernel

/-- ValidFrameSequencesAreDelivered: both generations. -/
theorem test_witness_frame_sequence :
    fresh.parser.phase = .idle ∧ ∀ f ∈ [frameV, frameX], f.Verified ∧ fresh.params.Fits f.gen f.size := by
  refine ⟨rfl, fun f hf => ?_⟩
  rcases List.mem_cons.1 hf with rfl | hf
  · exact ⟨verified_frameV, by show _ ≤ _; decide⟩
  · rcases List.mem_singleton.1 hf with rfl
    exact ⟨verified_frameX, by show _ ≤ _; decide⟩

/-- DecAgreesWithParser: the parser just after RST; and a sequence with each of DEC's six results (D18, D16, D7, D10, D13,
D20). -/
theorem test_witness_agreement :
    (fresh.Inv ∧ fresh.parser.phase = .idle ∧ fresh.parser.offset = 0 ∧ fresh.out = [] ∧
      fresh.params = Params.default ∧ bytesV.length < 2 ^ 64) ∧
    decodeFrame bytesV = .ok frameV ∧
    decodeFrame [0x24, 0x4D, 0x3C, 0x00, 0x64, 0x65] = .error .checksumMismatch ∧
    decodeFrame [0x24, 0x00] = .error .invalidPreamble ∧
    decodeFrame [0x24, 0x4D, 0x3F] = .error .unsupportedDirectionMarker ∧
    decodeFrame [0x24, 0x4D, 0x3C, 0x03] = .error .truncatedFrame ∧
    decodeFrame (bytesV ++ [0x24]) = .error .sizeMismatch :=
  ⟨⟨inv_scanning .idle 0 (.inl rfl), by decide +kernel⟩, by decide⟩

/-- ResynchronisesAfterCorruption: the valid frame, and a corrupted one of each clause (V6.2, V6.5, V6.7, V6.6, V6.8). -/
theorem test_witness_resynchronise :
    (fresh.parser.phase = .idle ∧ frameV.Verified ∧ fresh.params.Fits frameV.gen frameV.size) ∧
    ([(1 : Byte), 0xFF, 3].length = (3 : Byte).toNat ∧ (3 : Byte).toNat ≤ fresh.params.maxLegacy.toNat ∧
      (0x67 : Byte) ≠ xorFold (coveredL 3 0x64 [1, 0xFF, 3])) ∧
    (([] : List Byte).length = (0 : Half).toNat ∧ (0 : Half).toNat ≤ fresh.params.maxExt.toNat ∧
      (0x24 : Byte) ≠ crc8 (coveredX 0 1000 0 [])) ∧
    ((0x4E : Byte) ≠ 0x4D ∧ (0x4E : Byte) ≠ 0x58 ∧ (0x24 : Byte) ∉ [(0x3C : Byte), 3, 0x64, 1, 2, 3, 0x67]) ∧
    ((0x3F : Byte) ≠ 0x3C ∧ (0x3F : Byte) ≠ 0x3E ∧ (0x3F : Byte) ≠ 0x21 ∧
      (0x24 : Byte) ∉ [(3 : Byte), 0x64, 1, 2, 3, 0x67]) ∧
    (0x24 : Byte) ∉ [(0x25 : Byte), 0x4D, 0x3C, 3, 0x64, 1, 2, 3, 0x67] :=
  ⟨⟨rfl, verified_frameV, by show _ ≤ _; decide⟩, by decide +kernel⟩

/-- StrayStartMarkerLosesFrame: V6.1. -/
theorem test_witness_stray : fresh.parser.phase = .idle ∧ (0x24 : Byte) ∉ frameZ.wire.tail := by decide +kernel

/-- CrcLaws (linearity) and SingleBitFlipsAreDetected: the hypotheses at their ends. -/
theorem test_witness_checksum_laws :
    [(1 : Byte), 2].length = [(3 : Byte), 4].length ∧ 0 < 8 ∧ 7 < 8 := by decide +kernel

/-- EncLegacyReturnsFrame, EncLegacyWideCommandIsRefused: where the clauses meet. -/
theorem test_witness_encLegacy :
    (255 : Half).toNat ≤ 255 ∧ 255 < (256 : Half).toNat ∧ (List.replicate 255 (0 : Byte)).length ≤ 255 ∧
      255 < (List.replicate 256 (0 : Byte)).length := by
  simp only [List.length_replicate]; decide

/-- EncExtendedReturnsFrame: where the clauses meet. -/
theorem test_witness_encExtended :
    (List.replicate 65535 (0 : Byte)).length ≤ 65535 ∧ 65535 < (List.replicate 65536 (0 : Byte)).length := by
  simp only [List.length_replicate]; decide

/-- EncDecRoundTrip: the widest operands of each generation, and a sequence that DEC accepts. -/
theorem test_witness_round_trip :
    ((255 : Half).toNat ≤ 255 ∧ (List.replicate 255 (0xAA : Byte)).length ≤ 255) ∧
    (List.replicate 65535 (0 : Byte)).length ≤ 65535 ∧
    exec (.dec bytesV) fresh = .next (fresh.withResult (.frame frameV)) := by
  simp only [List.length_replicate]
  exact ⟨by decide +kernel, by decide, rfl⟩

/-- EncIsInjective: both generations, with the same flag-less bytes from two flags (E9). -/
theorem test_witness_injective :
    exec (.encLegacy .toDevice 0 100 [1, 2, 3]) fresh = .next (fresh.withResult (.bytes bytesV)) ∧
    exec (.encLegacy .toDevice 0xA5 100 [1, 2, 3]) fresh = .next (fresh.withResult (.bytes bytesV)) ∧
    exec (.encExtended .toDevice 0 1000 []) fresh =
      .next (fresh.withResult (.bytes [0x24, 0x58, 0x3C, 0x00, 0xE8, 0x03, 0x00, 0x00, 0x12])) := by
  refine ⟨rfl, rfl, ?_⟩
  have h : encodeExtended .toDevice 0 1000 [] = .ok [0x24, 0x58, 0x3C, 0x00, 0xE8, 0x03, 0x00, 0x00, 0x12] := by
    decide +kernel
  rw [← show encResult (encodeExtended .toDevice 0 1000 []) = .bytes _ from congrArg encResult h]
  rfl

/-- PureOperationsChangeNothing: each of the five. -/
theorem test_witness_pure :
    (∃ t, exec (.csumL []) inPayload = .next t) ∧ (∃ t, exec (.csumX []) inPayload = .next t) ∧
    (∃ t, exec (.encLegacy .error 0 255 []) inPayload = .next t) ∧
    (∃ t, exec (.encExtended .error 0 255 []) inPayload = .next t) ∧ ∃ t, exec (.dec []) inPayload = .next t :=
  ⟨⟨_, rfl⟩, ⟨_, rfl⟩, ⟨_, rfl⟩, ⟨_, rfl⟩, ⟨_, rfl⟩⟩

/-- StepKeepsInv, ParametersNeverChange, OutcomesAreNeverWithdrawn: a PUSH and an RST as the next request. -/
theorem test_witness_steps :
    (issuing inPayload (.op 1 (.byte 2))).Inv ∧ (∃ t, step (issuing inPayload (.op 1 (.byte 2))) = .next t) ∧
    ∃ t, step (issuing inPayload (.op 0 .none)) = .next t :=
  ⟨inv_inPayload, ⟨_, rfl⟩, ⟨_, rfl⟩⟩

/-- The state inside a frame with another flag register and another later buffer byte. -/
def inPayloadStale : State :=
  { inPayload with parser := { inPayload.parser with flag := 0xFF, pbuf := [(0, 1), (1, 0xFF)] } }

theorem inv_inPayloadStale : inPayloadStale.Inv := by
  refine ⟨(Parser.phaseOk_readingPayload rfl).2
    ⟨?_, fun _ => by decide, by decide, by decide, [1], rfl, by decide +kernel⟩, ⟨rfl, ?_⟩, ?_, ?_⟩
  · show _ ≤ _; decide
  all_goals simp [inPayloadStale, inPayload, legacyAt, fresh, State.reset, Params.pbufCap, Params.default]

/-- StaleRegistersAreUnobservable: two parsers in `Idle` whose registers differ, and two inside the same frame whose flag
and later buffer bytes differ. -/
theorem test_witness_stale :
    ((scanning .idle 0).Inv ∧ (legacyAt .idle 0 100 3 2 0x66 []).Inv ∧
      (scanning .idle 0).params = (legacyAt .idle 0 100 3 2 0x66 []).params ∧
      (scanning .idle 0).parser.SameLive (legacyAt .idle 0 100 3 2 0x66 []).parser) ∧
    inPayload.Inv ∧ inPayloadStale.Inv ∧ inPayload.params = inPayloadStale.params ∧
      inPayload.parser.SameLive inPayloadStale.parser := by
  refine ⟨⟨inv_scanning _ _ (.inl rfl), ⟨Parser.phaseOk_of_scanning (.inl rfl), ⟨rfl, ?_⟩, ?_, ?_⟩, rfl, rfl, rfl,
    trivial⟩, inv_inPayload, inv_inPayloadStale, rfl, rfl, rfl, rfl, rfl, rfl, fun h => (nomatch h), rfl, rfl, rfl,
    by decide⟩ <;>
    simp [legacyAt, Parser.reset, fresh, State.reset]

end Sys2Proof.Tests
end

section
/-!
FrameCodec (41_frame_codec): what ENC and DEC return, and the instructions that run them. DEC is settled through one
predicate, `DecCause`, the table of causes of R102: each cause brings about its answer, and every byte sequence has a
cause, so the answers are exactly those the table names.
-/
namespace Sys2Proof

/-! ### The bytes of a half -/

theorem lo8_eq_ofNat (v : Half) : lo8 v = BitVec.ofNat 8 v.toNat := by
  apply BitVec.eq_of_toNat_eq; simp [lo8_toNat]

theorem lo8_ofNat (n : Nat) : lo8 (BitVec.ofNat 16 n) = BitVec.ofNat 8 n := by
  apply BitVec.eq_of_toNat_eq; simp [lo8_toNat]

theorem hi8_eq_ofNat (v : Half) : hi8 v = BitVec.ofNat 8 (v.toNat / 256) := by
  apply BitVec.eq_of_toNat_eq; have := v.isLt; simp [hi8_toNat]; omega

theorem hi8_ofNat {n : Nat} (h : n ≤ 65535) : hi8 (BitVec.ofNat 16 n) = BitVec.ofNat 8 (n / 256) := by
  rw [hi8_eq_ofNat, BitVec.toNat_ofNat, Nat.mod_eq_of_lt (by omega)]

/-! ### ENC -/

theorem encodeLegacy_of_le {dir : Dir} {cmd : Byte} {payload : List Byte} (h : payload.length ≤ 255) :
    encodeLegacy dir cmd payload = .ok (frameLBytes dir (BitVec.ofNat 8 payload.length) cmd payload
      (xorFold (coveredL (BitVec.ofNat 8 payload.length) cmd payload))) :=
  if_neg (Nat.not_lt.2 h)

theorem encodeLegacy_of_lt {dir : Dir} {cmd : Byte} {payload : List Byte} (h : 255 < payload.length) :
    encodeLegacy dir cmd payload = .error .payloadTooLarge :=
  if_pos h

theorem encodeExtended_of_le {dir : Dir} {flag : Byte} {cmd : Half} {payload : List Byte}
    (h : payload.length ≤ 65535) :
    encodeExtended dir flag cmd payload = .ok (frameXBytes dir flag cmd (BitVec.ofNat 16 payload.length) payload
      (crc8 (coveredX flag cmd (BitVec.ofNat 16 payload.length) payload))) :=
  if_neg (Nat.not_lt.2 h)

theorem encodeExtended_of_lt {dir : Dir} {flag : Byte} {cmd : Half} {payload : List Byte}
    (h : 65535 < payload.length) : encodeExtended dir flag cmd payload = .error .payloadTooLarge :=
  if_pos h

/-! ### Indexing into a frame's bytes -/

theorem byteAt_eq_of_append {w pre : List Byte} {k : Byte} {i : Nat} (hw : w = pre ++ [k]) (hi : i = pre.length) :
    byteAt w i = k := by
  subst hw hi; simp [byteAt]

theorem slice_eq_of_append {w pre mid post : List Byte} {i j : Nat} (hw : w = pre ++ mid ++ post)
    (hi : i = pre.length) (hj : j = pre.length + mid.length) : slice w i j = mid := by
  subst hw hi hj; simp [slice]

theorem length_frameLBytes (d : Dir) (size cmd : Byte) (payload : List Byte) (k : Byte) :
    (frameLBytes d size cmd payload k).length = 6 + payload.length := by
  simp [frameLBytes]; omega

theorem length_frameXBytes (d : Dir) (flag : Byte) (cmd size : Half) (payload : List Byte) (k : Byte) :
    (frameXBytes d flag cmd size payload k).length = 9 + payload.length := by
  simp [frameXBytes]; omega

/-- Any bytes after a legacy size byte that are as many as it declares, and two more, are a command, a payload and a
checksum (R54). -/
theorem exists_eq_frameLBytes {d : Dir} {size : Byte} {rest : List Byte} (h : rest.length = size.toNat + 2) :
    ∃ cmd payload k, 0x24 :: 0x4D :: dirMarker d :: size :: rest = frameLBytes d size cmd payload k ∧
      payload.length = size.toNat := by
  obtain _ | ⟨cmd, tail⟩ := rest
  · simp at h
  · obtain rfl | ⟨payload, k, rfl⟩ := List.eq_nil_or_concat' tail
    · simp at h
    · exact ⟨cmd, payload, k, rfl, by simpa using h⟩

/-- The extended counterpart (R55): the header is read whole, so only payload and checksum are left. -/
theorem exists_eq_frameXBytes {d : Dir} {flag c0 c1 z0 z1 : Byte} {rest : List Byte}
    (h : rest.length = (u16le z0 z1).toNat + 1) :
    ∃ payload k, 0x24 :: 0x58 :: dirMarker d :: flag :: c0 :: c1 :: z0 :: z1 :: rest =
        frameXBytes d flag (u16le c0 c1) (u16le z0 z1) payload k ∧ payload.length = (u16le z0 z1).toNat := by
  obtain rfl | ⟨payload, k, rfl⟩ := List.eq_nil_or_concat' rest
  · simp at h
  · exact ⟨payload, k, by simp [frameXBytes, genMarker], by simpa using h⟩

/-! ### The records of a frame's fields -/

/-- The record of a legacy frame's fields: zero-extended, with the flag driven 0 (R29, R58). -/
def RawFrame.ofLegacy (d : Dir) (size cmd : Byte) (payload : List Byte) (k : Byte) : RawFrame :=
  { gen := .legacy, dir := d, flag := 0, cmd := zext16 cmd, size := zext16 size, payload := payload, checksum := k }

/-- The record of an extended frame's fields (R29). -/
def RawFrame.ofExtended (d : Dir) (flag : Byte) (cmd size : Half) (payload : List Byte) (k : Byte) : RawFrame :=
  { gen := .extended, dir := d, flag := flag, cmd := cmd, size := size, payload := payload, checksum := k }

@[simp] theorem RawFrame.wire_ofLegacy (d : Dir) (size cmd : Byte) (payload : List Byte) (k : Byte) :
    (RawFrame.ofLegacy d size cmd payload k).wire = frameLBytes d size cmd payload k := by
  simp [wire, ofLegacy]

@[simp] theorem RawFrame.wire_ofExtended (d : Dir) (flag : Byte) (cmd size : Half) (payload : List Byte) (k : Byte) :
    (RawFrame.ofExtended d flag cmd size payload k).wire = frameXBytes d flag cmd size payload k := rfl

theorem RawFrame.verified_ofLegacy {d : Dir} {size cmd : Byte} {payload : List Byte} {k : Byte} :
    (RawFrame.ofLegacy d size cmd payload k).Verified ↔
      payload.length = size.toNat ∧ k = xorFold (coveredL size cmd payload) := by
  simp only [Verified, ofLegacy, covered, checksumOf, lo8_zext16, zext16_toNat]
  exact ⟨fun ⟨hlen, hk, _⟩ => ⟨hlen, hk⟩, fun ⟨hlen, hk⟩ => ⟨hlen, hk, fun _ => ⟨trivial, by omega, by omega⟩⟩⟩

theorem RawFrame.verified_ofExtended {d : Dir} {flag : Byte} {cmd size : Half} {payload : List Byte} {k : Byte} :
    (RawFrame.ofExtended d flag cmd size payload k).Verified ↔
      payload.length = size.toNat ∧ k = crc8 (coveredX flag cmd size payload) := by
  simp [Verified, ofExtended, covered, checksumOf]

/-- A verified record is the record of the fields that stand in its wire bytes. -/
theorem RawFrame.Verified.eq_ofLegacy_or_eq_ofExtended {f : RawFrame} (h : f.Verified) :
    f = .ofLegacy f.dir (lo8 f.size) (lo8 f.cmd) f.payload f.checksum ∨
      f = .ofExtended f.dir f.flag f.cmd f.size f.payload f.checksum := by
  obtain ⟨gen, dir, flag, cmd, size, payload, checksum⟩ := f
  obtain ⟨-, -, hlegacy⟩ := h
  cases gen with
  | legacy =>
    obtain ⟨hflag, hcmd, hsize⟩ := hlegacy rfl
    left
    simp only at hflag hcmd hsize
    simp [ofLegacy, hflag, zext16_lo8 hcmd, zext16_lo8 hsize]
  | extended => exact .inr rfl

/-! ### DEC, check by check (R100) -/

theorem decodeFrame_nil : decodeFrame [] = .error .truncatedFrame := rfl

theorem decodeFrame_start : decodeFrame [0x24] = .error .truncatedFrame := rfl

theorem decodeFrame_of_ne_start {a : Byte} (rest : List Byte) (h : a ≠ 0x24) :
    decodeFrame (a :: rest) = .error .invalidPreamble := by
  rw [decodeFrame, if_neg (by simp)]
  exact if_pos h

theorem decodeFrame_gen (g : Gen) : decodeFrame [0x24, genMarker g] = .error .truncatedFrame := by
  cases g <;> rfl

theorem decodeFrame_of_not_gen {g : Byte} (rest : List Byte) (h : g ≠ 0x4D ∧ g ≠ 0x58) :
    decodeFrame (0x24 :: g :: rest) = .error .invalidPreamble := by
  simp [decodeFrame, byteAt, genOfMarker_eq_none.2 h]

theorem decodeFrame_of_not_dir (g : Gen) {d : Byte} (rest : List Byte) (h : d ≠ 0x3C ∧ d ≠ 0x3E ∧ d ≠ 0x21) :
    decodeFrame (0x24 :: genMarker g :: d :: rest) = .error .unsupportedDirectionMarker := by
  simp [decodeFrame, byteAt, dirOfMarker_eq_none.2 h]

theorem decodeFrame_legacy (d : Dir) (rest : List Byte) :
    decodeFrame (0x24 :: 0x4D :: dirMarker d :: rest) = decodeLegacy d (0x24 :: 0x4D :: dirMarker d :: rest) := by
  cases d <;> rfl

theorem decodeFrame_extended (d : Dir) (rest : List Byte) :
    decodeFrame (0x24 :: 0x58 :: dirMarker d :: rest) = decodeExtended d (0x24 :: 0x58 :: dirMarker d :: rest) := by
  cases d <;> rfl

theorem decodeLegacy_of_lt {d : Dir} {w : List Byte} (h : w.length < 6 + (byteAt w 3).toNat) :
    decodeLegacy d w = .error .truncatedFrame := by
  simp [decodeLegacy, h]

theorem decodeLegacy_of_gt {d : Dir} {w : List Byte} (h : 6 + (byteAt w 3).toNat < w.length) :
    decodeLegacy d w = .error .sizeMismatch := by
  rw [decodeLegacy, if_neg (by omega)]
  dsimp only
  rw [if_neg (by omega), if_pos h]

theorem decodeLegacy_frameLBytes (d : Dir) {size : Byte} (cmd : Byte) {payload : List Byte} (k : Byte)
    (h : payload.length = size.toNat) :
    decodeLegacy d (frameLBytes d size cmd payload k) =
      if xorFold (coveredL size cmd payload) ≠ k then .error .checksumMismatch
      else .ok (.ofLegacy d size cmd payload k) := by
  have hlen := length_frameLBytes d size cmd payload k
  have hsize : byteAt (frameLBytes d size cmd payload k) 3 = size := rfl
  have hcmd : byteAt (frameLBytes d size cmd payload k) 4 = cmd := rfl
  have hcovered : slice (frameLBytes d size cmd payload k) 3 (5 + size.toNat) = coveredL size cmd payload :=
    slice_eq_of_append (pre := [0x24, 0x4D, dirMarker d]) (post := [k]) rfl rfl (by simp [coveredL]; omega)
  have hpayload : slice (frameLBytes d size cmd payload k) 5 (5 + size.toNat) = payload :=
    slice_eq_of_append (pre := [0x24, 0x4D, dirMarker d, size, cmd]) (post := [k]) rfl rfl (by simp; omega)
  have hk : byteAt (frameLBytes d size cmd payload k) (5 + size.toNat) = k :=
    byteAt_eq_of_append rfl (by simp; omega)
  rw [decodeLegacy, if_neg (by omega)]
  dsimp only
  rw [hsize, hcmd, hcovered, hpayload, hk, if_neg (by omega), if_neg (by omega)]
  rfl

theorem decodeExtended_of_lt_header {d : Dir} {w : List Byte} (h : w.length < 8) :
    decodeExtended d w = .error .truncatedFrame := if_pos h

theorem decodeExtended_of_lt {d : Dir} {w : List Byte}
    (h : w.length < 9 + (u16le (byteAt w 6) (byteAt w 7)).toNat) :
    decodeExtended d w = .error .truncatedFrame := by
  simp [decodeExtended, h]

theorem decodeExtended_of_gt {d : Dir} {w : List Byte}
    (h : 9 + (u16le (byteAt w 6) (byteAt w 7)).toNat < w.length) :
    decodeExtended d w = .error .sizeMismatch := by
  rw [decodeExtended, if_neg (by omega)]
  dsimp only
  rw [if_neg (by omega), if_pos h]

theorem decodeExtended_frameXBytes (d : Dir) (flag : Byte) (cmd : Half) {size : Half} {payload : List Byte} (k : Byte)
    (h : payload.length = size.toNat) :
    decodeExtended d (frameXBytes d flag cmd size payload k) =
      if crc8 (coveredX flag cmd size payload) ≠ k then .error .checksumMismatch
      else .ok (.ofExtended d flag cmd size payload k) := by
  have hlen := length_frameXBytes d flag cmd size payload k
  have hsize : u16le (byteAt (frameXBytes d flag cmd size payload k) 6)
      (byteAt (frameXBytes d flag cmd size payload k) 7) = size := u16le_lo8_hi8 size
  have hcmd : u16le (byteAt (frameXBytes d flag cmd size payload k) 4)
      (byteAt (frameXBytes d flag cmd size payload k) 5) = cmd := u16le_lo8_hi8 cmd
  have hcovered : slice (frameXBytes d flag cmd size payload k) 3 (8 + size.toNat) = coveredX flag cmd size payload :=
    slice_eq_of_append (pre := [0x24, 0x58, dirMarker d]) (post := [k]) rfl rfl (by simp [coveredX]; omega)
  have hpayload : slice (frameXBytes d flag cmd size payload k) 8 (8 + size.toNat) = payload :=
    slice_eq_of_append (pre := [0x24, 0x58, dirMarker d, flag, lo8 cmd, hi8 cmd, lo8 size, hi8 size]) (post := [k])
      rfl rfl (by simp; omega)
  have hk : byteAt (frameXBytes d flag cmd size payload k) (8 + size.toNat) = k :=
    byteAt_eq_of_append rfl (by simp; omega)
  rw [decodeExtended, if_neg (by omega)]
  dsimp only
  rw [hsize, hcmd, hcovered, hpayload, hk, if_neg (by omega), if_neg (by omega)]
  rfl

theorem decodeFrame_frameLBytes (d : Dir) {size : Byte} (cmd : Byte) {payload : List Byte} (k : Byte)
    (h : payload.length = size.toNat) :
    decodeFrame (frameLBytes d size cmd payload k) =
      if xorFold (coveredL size cmd payload) ≠ k then .error .checksumMismatch
      else .ok (.ofLegacy d size cmd payload k) :=
  (decodeFrame_legacy d _).trans (decodeLegacy_frameLBytes d cmd k h)

theorem decodeFrame_frameXBytes (d : Dir) (flag : Byte) (cmd : Half) {size : Half} {payload : List Byte} (k : Byte)
    (h : payload.length = size.toNat) :
    decodeFrame (frameXBytes d flag cmd size payload k) =
      if crc8 (coveredX flag cmd size payload) ≠ k then .error .checksumMismatch
      else .ok (.ofExtended d flag cmd size payload k) :=
  (decodeFrame_extended d _).trans (decodeExtended_frameXBytes d flag cmd k h)

/-- DEC reads every verified record back from its wire bytes (R104). -/
theorem decodeFrame_wire {f : RawFrame} (h : f.Verified) : decodeFrame f.wire = .ok f := by
  obtain hf | hf := h.eq_ofLegacy_or_eq_ofExtended
  · rw [hf, RawFrame.verified_ofLegacy] at h
    rw [hf, RawFrame.wire_ofLegacy, decodeFrame_frameLBytes _ _ _ h.1, if_neg (not_not.2 h.2.symm)]
  · rw [hf, RawFrame.verified_ofExtended] at h
    rw [hf, RawFrame.wire_ofExtended, decodeFrame_frameXBytes _ _ _ _ h.1, if_neg (not_not.2 h.2.symm)]

/-! ### The table of causes (R102) -/

/-- The cause of each answer DEC can give on the bytes `w`. -/
def DecCause (w : List Byte) : Except ErrorCode RawFrame → Prop
  | .error .truncatedFrame =>
    w = [] ∨ w = [0x24] ∨ (∃ g, w = [0x24, genMarker g]) ∨
      ∃ d, w = [0x24, 0x4D, dirMarker d] ∨
        (∃ size rest, w = 0x24 :: 0x4D :: dirMarker d :: size :: rest ∧ w.length < 6 + size.toNat) ∨
        (∃ rest, w = 0x24 :: 0x58 :: dirMarker d :: rest ∧ w.length < 8) ∨
        (∃ flag c0 c1 z0 z1 rest, w = 0x24 :: 0x58 :: dirMarker d :: flag :: c0 :: c1 :: z0 :: z1 :: rest ∧
          w.length < 9 + (u16le z0 z1).toNat)
  | .error .invalidPreamble =>
    (∃ a rest, w = a :: rest ∧ a ≠ 0x24) ∨ (∃ g rest, w = 0x24 :: g :: rest ∧ g ≠ 0x4D ∧ g ≠ 0x58)
  | .error .unsupportedDirectionMarker =>
    ∃ g d rest, w = 0x24 :: genMarker g :: d :: rest ∧ d ≠ 0x3C ∧ d ≠ 0x3E ∧ d ≠ 0x21
  | .error .sizeMismatch =>
    ∃ d, (∃ size rest, w = 0x24 :: 0x4D :: dirMarker d :: size :: rest ∧ 6 + size.toNat < w.length) ∨
      (∃ flag c0 c1 z0 z1 rest, w = 0x24 :: 0x58 :: dirMarker d :: flag :: c0 :: c1 :: z0 :: z1 :: rest ∧
        9 + (u16le z0 z1).toNat < w.length)
  | .error .checksumMismatch =>
    ∃ d, (∃ size cmd payload k, w = frameLBytes d size cmd payload k ∧ payload.length = size.toNat ∧
        k ≠ xorFold (coveredL size cmd payload)) ∨
      (∃ flag cmd size payload k, w = frameXBytes d flag cmd size payload k ∧ payload.length = size.toNat ∧
        k ≠ crc8 (coveredX flag cmd size payload))
  | .error .payloadTooLarge => False
  | .error .unregisteredCommand => False
  | .ok f => f.Verified ∧ w = f.wire

theorem decodeFrame_of_truncated {w : List Byte} (h : DecCause w (.error .truncatedFrame)) :
    decodeFrame w = .error .truncatedFrame := by
  obtain rfl | rfl | ⟨g, rfl⟩ | ⟨d, rfl | ⟨size, rest, rfl, h⟩ | ⟨rest, rfl, h⟩ |
    ⟨flag, c0, c1, z0, z1, rest, rfl, h⟩⟩ := h
  · exact decodeFrame_nil
  · exact decodeFrame_start
  · exact decodeFrame_gen g
  · exact decodeFrame_legacy d []
  · exact (decodeFrame_legacy d _).trans (decodeLegacy_of_lt h)
  · exact (decodeFrame_extended d _).trans (decodeExtended_of_lt_header h)
  · exact (decodeFrame_extended d _).trans (decodeExtended_of_lt h)

theorem decodeFrame_of_sizeMismatch {w : List Byte} (h : DecCause w (.error .sizeMismatch)) :
    decodeFrame w = .error .sizeMismatch := by
  obtain ⟨d, ⟨size, rest, rfl, h⟩ | ⟨flag, c0, c1, z0, z1, rest, rfl, h⟩⟩ := h
  · exact (decodeFrame_legacy d _).trans (decodeLegacy_of_gt h)
  · exact (decodeFrame_extended d _).trans (decodeExtended_of_gt h)

theorem decodeFrame_of_checksumMismatch {w : List Byte} (h : DecCause w (.error .checksumMismatch)) :
    decodeFrame w = .error .checksumMismatch := by
  obtain ⟨d, ⟨size, cmd, payload, k, rfl, hlen, hk⟩ | ⟨flag, cmd, size, payload, k, rfl, hlen, hk⟩⟩ := h
  · exact (decodeFrame_frameLBytes d cmd k hlen).trans (if_pos hk.symm)
  · exact (decodeFrame_frameXBytes d flag cmd k hlen).trans (if_pos hk.symm)

/-- A cause brings about its answer. -/
theorem DecCause.decodeFrame_eq {w : List Byte} {x : Except ErrorCode RawFrame} (h : DecCause w x) :
    decodeFrame w = x := by
  match x with
  | .error .truncatedFrame => exact decodeFrame_of_truncated h
  | .error .invalidPreamble =>
    obtain ⟨a, rest, rfl, ha⟩ | ⟨g, rest, rfl, hg⟩ := h
    · exact decodeFrame_of_ne_start rest ha
    · exact decodeFrame_of_not_gen rest hg
  | .error .unsupportedDirectionMarker =>
    obtain ⟨g, d, rest, rfl, hd⟩ := h
    exact decodeFrame_of_not_dir g rest hd
  | .error .sizeMismatch => exact decodeFrame_of_sizeMismatch h
  | .error .checksumMismatch => exact decodeFrame_of_checksumMismatch h
  | .ok f =>
    obtain ⟨hf, rfl⟩ := h
    exact decodeFrame_wire hf

/-- After the markers of a legacy frame the length decides, and at the declared length the checksum. -/
theorem exists_decCause_legacy (d : Dir) (rest : List Byte) :
    ∃ x, DecCause (0x24 :: 0x4D :: dirMarker d :: rest) x := by
  obtain _ | ⟨size, rest⟩ := rest
  · exact ⟨.error .truncatedFrame, .inr (.inr (.inr ⟨d, .inl rfl⟩))⟩
  obtain hlt | heq | hgt := lt_trichotomy (rest.length + 4) (6 + size.toNat)
  · exact ⟨.error .truncatedFrame, .inr (.inr (.inr ⟨d, .inr (.inl ⟨size, rest, rfl, hlt⟩)⟩))⟩
  · obtain ⟨cmd, payload, k, hw, hlen⟩ := exists_eq_frameLBytes (d := d) (show rest.length = size.toNat + 2 by omega)
    rw [hw]
    by_cases hk : k = xorFold (coveredL size cmd payload)
    · exact ⟨.ok (.ofLegacy d size cmd payload k), RawFrame.verified_ofLegacy.2 ⟨hlen, hk⟩,
        (RawFrame.wire_ofLegacy ..).symm⟩
    · exact ⟨.error .checksumMismatch, d, .inl ⟨size, cmd, payload, k, rfl, hlen, hk⟩⟩
  · exact ⟨.error .sizeMismatch, d, .inl ⟨size, rest, rfl, hgt⟩⟩

/-- The extended counterpart; a header that is not whole is truncated. -/
theorem exists_decCause_extended (d : Dir) (rest : List Byte) :
    ∃ x, DecCause (0x24 :: 0x58 :: dirMarker d :: rest) x := by
  match rest with
  | flag :: c0 :: c1 :: z0 :: z1 :: rest =>
    obtain hlt | heq | hgt := lt_trichotomy (rest.length + 8) (9 + (u16le z0 z1).toNat)
    · exact ⟨.error .truncatedFrame,
        .inr (.inr (.inr ⟨d, .inr (.inr (.inr ⟨flag, c0, c1, z0, z1, rest, rfl, hlt⟩))⟩))⟩
    · obtain ⟨payload, k, hw, hlen⟩ := exists_eq_frameXBytes (d := d) (flag := flag) (c0 := c0) (c1 := c1)
        (show rest.length = (u16le z0 z1).toNat + 1 by omega)
      rw [hw]
      by_cases hk : k = crc8 (coveredX flag (u16le c0 c1) (u16le z0 z1) payload)
      · exact ⟨.ok (.ofExtended d flag (u16le c0 c1) (u16le z0 z1) payload k),
          RawFrame.verified_ofExtended.2 ⟨hlen, hk⟩, rfl⟩
      · exact ⟨.error .checksumMismatch, d, .inr ⟨flag, _, _, payload, k, rfl, hlen, hk⟩⟩
    · exact ⟨.error .sizeMismatch, d, .inr ⟨flag, c0, c1, z0, z1, rest, rfl, hgt⟩⟩
  | [] | [_] | [_, _] | [_, _, _] | [_, _, _, _] =>
    exact ⟨.error .truncatedFrame, .inr (.inr (.inr ⟨d, .inr (.inr (.inl ⟨_, rfl, by simp⟩))⟩))⟩

/-- The table of causes leaves no byte sequence out: one check after the other, the first that fails is a cause. -/
theorem exists_decCause (w : List Byte) : ∃ x, DecCause w x := by
  obtain _ | ⟨a, w⟩ := w
  · exact ⟨.error .truncatedFrame, .inl rfl⟩
  by_cases ha : a = 0x24
  case neg => exact ⟨.error .invalidPreamble, .inl ⟨a, w, rfl, ha⟩⟩
  subst ha
  obtain _ | ⟨g, w⟩ := w
  · exact ⟨.error .truncatedFrame, .inr (.inl rfl)⟩
  cases hg : genOfMarker g with
  | none => exact ⟨.error .invalidPreamble, .inr ⟨g, w, rfl, genOfMarker_eq_none.1 hg⟩⟩
  | some gen =>
    obtain rfl := genOfMarker_eq_some.1 hg
    obtain _ | ⟨d, w⟩ := w
    · exact ⟨.error .truncatedFrame, .inr (.inr (.inl ⟨gen, rfl⟩))⟩
    cases hd : dirOfMarker d with
    | none => exact ⟨.error .unsupportedDirectionMarker, gen, d, w, rfl, dirOfMarker_eq_none.1 hd⟩
    | some dir =>
      obtain rfl := dirOfMarker_eq_some.1 hd
      cases gen with
      | legacy => exact exists_decCause_legacy dir w
      | extended => exact exists_decCause_extended dir w

/-- DEC's answers are exactly those the table of causes names. -/
theorem decodeFrame_eq_iff_decCause {w : List Byte} {x : Except ErrorCode RawFrame} :
    decodeFrame w = x ↔ DecCause w x := by
  refine ⟨?_, DecCause.decodeFrame_eq⟩
  rintro rfl
  obtain ⟨x, hx⟩ := exists_decCause w
  exact hx.decodeFrame_eq.symm ▸ hx

namespace Machine

/-! ### The instructions -/

theorem exec_encLegacy_of_le {dir : Dir} {flag : Byte} {cmd : Half} {payload : List Byte} {s : State}
    (h : cmd.toNat ≤ 255) :
    exec (.encLegacy dir flag cmd payload) s =
      .next (s.withResult (encResult (encodeLegacy dir (lo8 cmd) payload))) :=
  if_pos h

theorem exec_encLegacy_of_lt {dir : Dir} {flag : Byte} {cmd : Half} {payload : List Byte} {s : State}
    (h : 255 < cmd.toNat) : exec (.encLegacy dir flag cmd payload) s = .refused .legacyCommandTooWide :=
  if_neg (Nat.not_le.2 h)

theorem exec_encExtended (dir : Dir) (flag : Byte) (cmd : Half) (payload : List Byte) (s : State) :
    exec (.encExtended dir flag cmd payload) s =
      .next (s.withResult (encResult (encodeExtended dir flag cmd payload))) := rfl

theorem exec_dec (bytes : List Byte) (s : State) :
    exec (.dec bytes) s = .next (s.withResult (decResult (decodeFrame bytes))) := rfl

theorem decResult_eq_failure {x : Except ErrorCode RawFrame} {e : ErrorCode} :
    decResult x = .failure e ↔ x = .error e := by
  cases x <;> simp [decResult]

theorem decResult_eq_frame {x : Except ErrorCode RawFrame} {f : RawFrame} :
    decResult x = .frame f ↔ x = .ok f := by
  cases x <;> simp [decResult]

theorem decResult_eq_failure_iff_decCause {w : List Byte} {e : ErrorCode} :
    decResult (decodeFrame w) = .failure e ↔ DecCause w (.error e) :=
  decResult_eq_failure.trans decodeFrame_eq_iff_decCause

theorem decResult_eq_frame_iff_decCause {w : List Byte} {f : RawFrame} :
    decResult (decodeFrame w) = .frame f ↔ DecCause w (.ok f) :=
  decResult_eq_frame.trans decodeFrame_eq_iff_decCause

/-! ### The obligations -/

/-- Settles O43: on the domain of R95 the low byte of the command is the command. -/
theorem encLegacyReturnsFrame : Obligations.EncLegacyReturnsFrame := by
  intro s dir flag cmd payload hcmd
  rw [exec_encLegacy_of_le hcmd]
  refine ⟨fun h => ?_, fun h => ?_⟩
  · rw [encodeLegacy_of_le h, lo8_eq_ofNat]; rfl
  · rw [encodeLegacy_of_lt h]; rfl

/-- Settles O44: a size up to 65535 is the 16-bit field's two bytes, little-endian (R96). -/
theorem encExtendedReturnsFrame : Obligations.EncExtendedReturnsFrame := by
  intro s dir flag cmd payload
  rw [exec_encExtended]
  refine ⟨fun h => ?_, fun h => ?_⟩
  · rw [encodeExtended_of_le h, frameXBytes, coveredX, lo8_ofNat, hi8_ofNat h, lo8_eq_ofNat, hi8_eq_ofNat]; rfl
  · rw [encodeExtended_of_lt h]; rfl

/-- Settles O45: the operation's guard decides before anything is encoded (R98). -/
theorem encLegacyWideCommandIsRefused : Obligations.EncLegacyWideCommandIsRefused :=
  fun _ _ _ _ _ h => exec_encLegacy_of_lt h

/-- Settles O46: each clause is a row of the table of causes, and two of its rows are empty. -/
theorem decResultsHaveTheirCauses : Obligations.DecResultsHaveTheirCauses := fun s w =>
  ⟨decResult (decodeFrame w), exec_dec w s,
    decResult_eq_failure_iff_decCause, decResult_eq_failure_iff_decCause, decResult_eq_failure_iff_decCause,
    decResult_eq_failure_iff_decCause, decResult_eq_failure_iff_decCause,
    fun _ => decResult_eq_frame_iff_decCause,
    decResult_eq_failure_iff_decCause.1, decResult_eq_failure_iff_decCause.1⟩

end Machine
end Sys2Proof
end

section
/-!
StreamParser (42_stream_parser): PUSH and the rows of its decode table, rule by rule. Two facts settle the rules: a case
of `PushCase` brings about its state, and a row that is selected runs the push of its byte (R133).
-/
namespace Sys2Proof.Machine

/-! ### The decode table, context by context (R133) -/

section Table

variable {c : RxContext} {b : Byte}

theorem selectRow_idle (h : c.phase = .idle) :
    selectRow c b = if b = startMarker then .ok .rxIdleStart else .ok (.rxIdleSkip b) := by
  simp only [selectRow, h]

theorem selectRow_sawStart (h : c.phase = .sawStart) :
    selectRow c b = if b = 0x4D then .ok .rxSawstartM else if b = 0x58 then .ok .rxSawstartX
      else .ok (.rxSawstartBad b) := by
  simp only [selectRow, h]

theorem selectRow_sawGenerationMarker (h : c.phase = .sawGenerationMarker) :
    selectRow c b = if b = 0x3C then .ok .rxSawgenTo else if b = 0x3E then .ok .rxSawgenFrom
      else if b = 0x21 then .ok .rxSawgenErr else .ok (.rxSawgenBad b) := by
  simp only [selectRow, h]

theorem selectRow_readingFlag (h : c.phase = .readingFlag) (hg : c.gen = .extended) :
    selectRow c b = .ok (.rxFlag b) := by
  simp only [selectRow, h, hg]

theorem selectRow_readingSize_legacy (h : c.phase = .readingSize) (hg : c.gen = .legacy) :
    selectRow c b = if b ≤ c.maxLegacy then .ok (.rxSizeL b) else .ok (.rxSizeLOver b) := by
  simp only [selectRow, h, hg]

theorem selectRow_readingSize_low (h : c.phase = .readingSize) (hg : c.gen = .extended) (hi : c.idx = .low) :
    selectRow c b = .ok (.rxSizeXLo b) := by
  simp only [selectRow, h, hg, hi]

theorem selectRow_readingSize_high (h : c.phase = .readingSize) (hg : c.gen = .extended) (hi : c.idx = .high) :
    selectRow c b =
      if withHigh c.size b ≤ c.maxExt then .ok (.rxSizeXHi b) else .ok (.rxSizeXOver b) := by
  simp only [selectRow, h, hg, hi]

theorem selectRow_readingCommand_legacy (h : c.phase = .readingCommand) (hg : c.gen = .legacy) :
    selectRow c b = .ok (.rxCmdL b) := by
  simp only [selectRow, h, hg]

theorem selectRow_readingCommand_low (h : c.phase = .readingCommand) (hg : c.gen = .extended) (hi : c.idx = .low) :
    selectRow c b = .ok (.rxCmdXLo b) := by
  simp only [selectRow, h, hg, hi]

theorem selectRow_readingCommand_high (h : c.phase = .readingCommand) (hg : c.gen = .extended)
    (hi : c.idx = .high) : selectRow c b = .ok (.rxCmdXHi b) := by
  simp only [selectRow, h, hg, hi]

theorem selectRow_readingPayload (h : c.phase = .readingPayload) (hr : c.rem ≠ 0) :
    selectRow c b = .ok (.rxPayload b) := by
  simp only [selectRow, h, if_neg hr]

theorem selectRow_readingChecksum (h : c.phase = .readingChecksum) :
    selectRow c b = if b = c.acc then .ok (.rxCsumOk b) else .ok (.rxCsumBad b) := by
  simp only [selectRow, h]

end Table

/-! ### A byte's step and its row -/

section Step

variable {s t : State} {b : Byte} {row : Instr}

/-- The converse of `pushByte_cases`: each case brings about its state. -/
theorem PushCase.pushByte_eq (hc : PushCase s b t) : pushByte b s = .next t := by
  unfold pushByte
  cases hc with
  | start h hb => rw [h]; exact if_pos hb
  | skip h hb => rw [h]; exact if_neg hb
  | generation g h hb => rw [h, hb, pushSawStart, genOfMarker_genMarker]; rfl
  | badGeneration h hb => rw [h, pushSawStart, hb]; rfl
  | direction d h hb => rw [h, hb, pushSawGenerationMarker, dirOfMarker_dirMarker]; rfl
  | badDirection h hb => rw [h, pushSawGenerationMarker, hb]; rfl
  | flag h hg => rw [h, pushReadingFlag, hg]; rfl
  | legacySize h hg hb => rw [h, pushReadingSize, hg]; exact if_neg (BitVec.not_lt.2 hb)
  | legacySizeOver h hg hb => rw [h, pushReadingSize, hg]; exact if_pos hb
  | legacyCommand h hg => rw [h, pushReadingCommand, hg]; rfl
  | commandLow h hg hi => rw [h, pushReadingCommand, hg, hi]; rfl
  | commandHigh h hg hi => rw [h, pushReadingCommand, hg, hi]; rfl
  | sizeLow h hg hi => rw [h, pushReadingSize, hg, pushReadingSizeExtended, hi]; rfl
  | sizeHigh h hg hi hb =>
    rw [h, pushReadingSize, hg, pushReadingSizeExtended, hi]; exact if_neg (BitVec.not_lt.2 hb)
  | sizeHighOver h hg hi hb => rw [h, pushReadingSize, hg, pushReadingSizeExtended, hi]; exact if_pos hb
  | payload h hr hi => rw [h]; exact (if_neg hr).trans (State.storePayload_next.2 ⟨hi, rfl⟩)
  | delivered payload h hb hs hp =>
    rw [h]; exact (if_pos hb).trans (State.deliver_next.2 ⟨hs, payload, hp, rfl⟩)
  | badChecksum h hb => rw [h]; exact if_neg hb

/-- The row that is selected for a byte runs the push of that byte (R111, R133): in each context the row's own answer is
the one `pushByte` gives there. -/
theorem exec_eq_pushByte_of_selectRow (h : selectRow s.rxContext b = .ok row) : exec row s = pushByte b s := by
  have hrow {a : Answer} (ha : pushByte b s = a) : s.onRow b row a = pushByte b s :=
    (State.onRow_of_selected a h).trans ha.symm
  cases hp : s.parser.phase with
  | idle =>
    rw [selectRow_idle hp] at h
    split at h <;> rename_i hb <;> cases h
    · subst hb; exact hrow (PushCase.start hp rfl).pushByte_eq
    · exact hrow (PushCase.skip hp hb).pushByte_eq
  | sawStart =>
    rw [selectRow_sawStart hp] at h
    split at h
    · subst b; cases h; exact hrow (PushCase.generation .legacy hp rfl).pushByte_eq
    split at h
    · subst b; cases h; exact hrow (PushCase.generation .extended hp rfl).pushByte_eq
    · cases h; exact hrow (PushCase.badGeneration hp (genOfMarker_eq_none.2 ⟨‹_›, ‹_›⟩)).pushByte_eq
  | sawGenerationMarker =>
    rw [selectRow_sawGenerationMarker hp] at h
    split at h
    · subst b; cases h; exact hrow (PushCase.direction .toDevice hp rfl).pushByte_eq
    split at h
    · subst b; cases h; exact hrow (PushCase.direction .fromDevice hp rfl).pushByte_eq
    split at h
    · subst b; cases h; exact hrow (PushCase.direction .error hp rfl).pushByte_eq
    · cases h; exact hrow (PushCase.badDirection hp (dirOfMarker_eq_none.2 ⟨‹_›, ‹_›, ‹_›⟩)).pushByte_eq
  | sawDirection => simp [selectRow, hp] at h
  | readingFlag =>
    cases hg : s.parser.gen with
    | legacy => simp [selectRow, hp, hg] at h
    | extended =>
      cases (selectRow_readingFlag hp hg).symm.trans h
      exact hrow (PushCase.flag hp hg).pushByte_eq
  | readingSize =>
    cases hg : s.parser.gen with
    | legacy =>
      rw [selectRow_readingSize_legacy hp hg] at h
      split at h <;> rename_i hb <;> cases h
      · exact hrow (PushCase.legacySize hp hg hb).pushByte_eq
      · exact hrow (PushCase.legacySizeOver hp hg (BitVec.not_le.1 hb)).pushByte_eq
    | extended =>
      cases hi : s.parser.idx with
      | low =>
        cases (selectRow_readingSize_low hp hg hi).symm.trans h
        exact hrow (PushCase.sizeLow hp hg hi).pushByte_eq
      | high =>
        rw [selectRow_readingSize_high hp hg hi] at h
        split at h <;> rename_i hb <;> cases h
        · exact hrow (PushCase.sizeHigh hp hg hi hb).pushByte_eq
        · exact hrow (PushCase.sizeHighOver hp hg hi (BitVec.not_le.1 hb)).pushByte_eq
  | readingCommand =>
    cases hg : s.parser.gen with
    | legacy =>
      cases (selectRow_readingCommand_legacy hp hg).symm.trans h
      exact hrow (PushCase.legacyCommand hp hg).pushByte_eq
    | extended =>
      cases hi : s.parser.idx with
      | low =>
        cases (selectRow_readingCommand_low hp hg hi).symm.trans h
        exact hrow (PushCase.commandLow hp hg hi).pushByte_eq
      | high =>
        cases (selectRow_readingCommand_high hp hg hi).symm.trans h
        exact hrow (PushCase.commandHigh hp hg hi).pushByte_eq
  | readingPayload =>
    by_cases hr : s.parser.rem = 0
    case pos => simp [selectRow, hp, hr] at h
    cases (selectRow_readingPayload hp hr).symm.trans h
    exact hrow (by rw [pushByte, hp]; exact if_neg hr)
  | readingChecksum =>
    rw [selectRow_readingChecksum hp] at h
    split at h <;> rename_i hb <;> cases h
    · exact hrow (by rw [pushByte, hp]; exact if_pos hb)
    · exact hrow (PushCase.badChecksum hp hb).pushByte_eq

/-- A case of PUSH is also the answer of the row its byte selects. -/
theorem PushCase.push_and_row (hc : PushCase s b t) (h : selectRow s.rxContext b = .ok row) :
    exec (.push b) s = .next t ∧ exec row s = .next t :=
  ⟨hc.pushByte_eq, (exec_eq_pushByte_of_selectRow h).trans hc.pushByte_eq⟩

end Step

/-! ### The registers a byte writes -/

/-- The legacy flag is driven 0 (R29, R125). -/
theorem Parser.rawFrame_eq (p : Parser) (payload : List Byte) (k : Byte) :
    p.rawFrame payload k =
      { gen := p.gen, dir := p.dir, flag := if p.gen = .extended then p.flag else 0,
        cmd := p.cmd, size := p.size, payload := payload, checksum := k } := by
  cases hg : p.gen <;> simp [Parser.rawFrame, hg]

/-- The first of two command bytes leaves the phase as it is (R120). -/
theorem Parser.takeCommandLow_eq {p : Parser} (b : Byte) (h : p.phase = .readingCommand) :
    p.takeCommandLow b =
      { p with cmd := p.cmd.extractLsb' 8 8 ++ b, acc := crc8Step p.acc b, idx := .high } := by
  rw [Parser.takeCommandLow, ← h]; rfl

/-- The first of two size bytes leaves the phase as it is (R121). -/
theorem Parser.takeSizeLow_eq {p : Parser} (b : Byte) (h : p.phase = .readingSize) :
    p.takeSizeLow b =
      { p with size := p.size.extractLsb' 8 8 ++ b, acc := crc8Step p.acc b, idx := .high } := by
  rw [Parser.takeSizeLow, ← h]; rfl

theorem phaseAfterDirection_eq (g : Gen) :
    phaseAfterDirection g = if g = .legacy then .readingSize else .readingFlag := by
  cases g <;> rfl

/-- The generation chooses the checksum's step (R23, R90). -/
theorem Parser.accumulate_eq (p : Parser) (b : Byte) :
    p.accumulate b =
      match p.gen with
      | .legacy => p.acc ^^^ b
      | .extended => crc8Step p.acc b := by
  cases hg : p.gen <;> simp only [Parser.accumulate, checksumStep, hg]

/-- A countdown of 1 is the last payload byte's (R124). -/
theorem Parser.takePayload_eq (p : Parser) (b : Byte) :
    p.takePayload b =
      { p with
        pbuf := Memory.write p.pbuf p.payloadIndex b
        acc := p.accumulate b
        rem := p.rem - 1
        phase := if p.rem = 1 then .readingChecksum else .readingPayload } := by
  simp only [Parser.takePayload, half_pred_eq_zero]

/-! ### The obligations -/

/-- Settles O13: the two cases of R112. -/
theorem idleScansForStartMarker : Obligations.IdleScansForStartMarker := fun _ h =>
  ⟨(PushCase.start h rfl).push_and_row (selectRow_idle h),
    fun _ hb => (PushCase.skip h hb).push_and_row ((selectRow_idle h).trans (if_neg hb))⟩

/-- Settles O14: the markers of the two generations, and the bytes that are neither (R113). -/
theorem sawStartReadsGeneration : Obligations.SawStartReadsGeneration := fun _ h =>
  ⟨(PushCase.generation .legacy h rfl).push_and_row (selectRow_sawStart h),
    (PushCase.generation .extended h rfl).push_and_row (selectRow_sawStart h),
    fun _ hM hX => (PushCase.badGeneration h (genOfMarker_eq_none.2 ⟨hM, hX⟩)).push_and_row
      (by rw [selectRow_sawStart h, if_neg hM, if_neg hX])⟩

/-- Settles O15: the markers of the three directions, and the bytes that are none of them (R114). -/
theorem sawGenerationMarkerReadsDirection : Obligations.SawGenerationMarkerReadsDirection := by
  intro s h
  simp only [← phaseAfterDirection_eq]
  exact ⟨(PushCase.direction .toDevice h rfl).push_and_row (selectRow_sawGenerationMarker h),
    (PushCase.direction .fromDevice h rfl).push_and_row (selectRow_sawGenerationMarker h),
    (PushCase.direction .error h rfl).push_and_row (selectRow_sawGenerationMarker h),
    fun _ hTo hFrom hErr => (PushCase.badDirection h (dirOfMarker_eq_none.2 ⟨hTo, hFrom, hErr⟩)).push_and_row
      (by rw [selectRow_sawGenerationMarker h, if_neg hTo, if_neg hFrom, if_neg hErr])⟩

/-- Settles O16: the one case of R117. -/
theorem flagByteIsTaken : Obligations.FlagByteIsTaken := fun _ _ h hg =>
  (PushCase.flag h hg).push_and_row (selectRow_readingFlag h hg)

/-- Settles O17: the size within capacity and above it (R118). -/
theorem legacySizeIsTakenOrOverCapacity : Obligations.LegacySizeIsTakenOrOverCapacity := fun _ _ h hg =>
  ⟨fun hb => (PushCase.legacySize h hg hb).push_and_row ((selectRow_readingSize_legacy h hg).trans (if_pos hb)),
    fun hb => (PushCase.legacySizeOver h hg hb).push_and_row
      ((selectRow_readingSize_legacy h hg).trans (if_neg (BitVec.not_le.2 hb)))⟩

/-- Settles O18: the one case of R119. -/
theorem legacyCommandIsTaken : Obligations.LegacyCommandIsTaken := fun _ _ h hg =>
  (PushCase.legacyCommand h hg).push_and_row (selectRow_readingCommand_legacy h hg)

/-- Settles O19: the low and the high byte of the command (R120). -/
theorem extendedCommandIsTaken : Obligations.ExtendedCommandIsTaken := by
  intro s b h hg
  refine ⟨fun hi => ?_, fun hi => ?_⟩
  · rw [← Parser.takeCommandLow_eq b h]
    exact (PushCase.commandLow h hg hi).push_and_row (selectRow_readingCommand_low h hg hi)
  · exact (PushCase.commandHigh h hg hi).push_and_row (selectRow_readingCommand_high h hg hi)

/-- Settles O20: the low byte of the size, and the high byte within capacity and above it (R121). -/
theorem extendedSizeIsTakenOrOverCapacity : Obligations.ExtendedSizeIsTakenOrOverCapacity := by
  intro s b h hg
  refine ⟨fun hi => ?_, fun hi => ⟨fun hb => ?_, fun hb => ?_⟩⟩
  · rw [← Parser.takeSizeLow_eq b h]
    exact (PushCase.sizeLow h hg hi).push_and_row (selectRow_readingSize_low h hg hi)
  · exact (PushCase.sizeHigh h hg hi hb).push_and_row ((selectRow_readingSize_high h hg hi).trans (if_pos hb))
  · exact (PushCase.sizeHighOver h hg hi hb).push_and_row
      ((selectRow_readingSize_high h hg hi).trans (if_neg (BitVec.not_le.2 hb)))

/-- Settles O21: the buffer after the step is the old one with the byte written at the store index (R124, R37). -/
theorem payloadByteIsStored : Obligations.PayloadByteIsStored := by
  intro s b h hr hindex
  refine ⟨Memory.write s.parser.pbuf s.parser.payloadIndex b, ?_, Memory.read_write_same _ _ _,
    fun a ha => Memory.read_write_other _ _ ha⟩
  have hstep := (PushCase.payload (b := b) h hr hindex).push_and_row (selectRow_readingPayload h hr)
  rw [Parser.takePayload_eq, Parser.accumulate_eq] at hstep
  exact hstep

/-- Settles O22: a buffer that holds the payload byte by byte is read whole (R125, R38). -/
theorem matchingChecksumEmitsFrame : Obligations.MatchingChecksumEmitsFrame := by
  intro s payload h hlength hsize hbytes
  have hread : Memory.readRange s.parser.pbuf 0 s.parser.size.toNat = some payload :=
    Memory.readRange_eq_some.2 ⟨hlength, fun a ha => by rw [Nat.zero_add, hbytes a (hlength.symm ▸ ha)]⟩
  rw [← Parser.rawFrame_eq]
  exact (PushCase.delivered payload h rfl hsize hread).push_and_row
    ((selectRow_readingChecksum h).trans (if_pos rfl))

/-- Settles O23: the one case of R126. -/
theorem wrongChecksumRaisesMismatch : Obligations.WrongChecksumRaisesMismatch := fun _ _ h hb =>
  (PushCase.badChecksum h hb).push_and_row ((selectRow_readingChecksum h).trans (if_neg hb))

end Sys2Proof.Machine
end

section
/-!
ChecksumEngine (40_checksum): the laws of the two checksum functions. The fold is taken apart by associativity; the CRC
rests on one fact, that a shift step of the register is linear and loses nothing.
-/
namespace Sys2Proof

/-! ### The exclusive-or fold (R81, R82) -/

theorem foldl_xor_eq (a : Byte) (s : List Byte) : s.foldl (fun x b => x ^^^ b) a = a ^^^ xorFold s := by
  induction s using List.reverseRecOn with
  | nil => simp
  | append_singleton s b ih => rw [xorFold_concat, List.foldl_concat, ih, BitVec.xor_assoc]

theorem xorFold_append (s t : List Byte) : xorFold (s ++ t) = xorFold s ^^^ xorFold t := by
  rw [xorFold, List.foldl_append, foldl_xor_eq]; rfl

theorem xorFold_cons (b : Byte) (s : List Byte) : xorFold (b :: s) = b ^^^ xorFold s := by
  simpa [xorFold] using foldl_xor_eq b s

theorem xorFold_eq_foldr (s : List Byte) : xorFold s = s.foldr (fun b a => b ^^^ a) 0 :=
  List.foldl_eq_foldr ..

theorem xorFold_flip (s t : List Byte) (b e : Byte) :
    xorFold (s ++ (b ^^^ e) :: t) = xorFold (s ++ b :: t) ^^^ e := by
  simp only [xorFold_append, xorFold_cons]; ac_rfl

/-! ### The shift step of the CRC register (R83) -/

theorem crc8Shift_eq (c : Byte) :
    crc8Shift c = (c <<< 1) ^^^ (if c.getLsbD 7 then Config.crcPoly else 0) := by
  unfold crc8Shift; split <;> simp

theorem crc8Shift_xor (c d : Byte) : crc8Shift (c ^^^ d) = crc8Shift c ^^^ crc8Shift d := by
  have hpoly (p q : Bool) :
      (if (p ^^ q) then Config.crcPoly else 0) =
        (if p then Config.crcPoly else 0) ^^^ (if q then Config.crcPoly else 0) := by
    cases p <;> cases q <;> rfl
  simp only [crc8Shift_eq, BitVec.shiftLeft_xor_distrib, BitVec.getLsbD_xor, hpoly]
  ac_rfl

theorem crc8Shift_eq_zero : ∀ c : Byte, crc8Shift c = 0 → c = 0 := by decide

theorem crc8Shifts_xor (n : Nat) (c d : Byte) : crc8Shifts n (c ^^^ d) = crc8Shifts n c ^^^ crc8Shifts n d := by
  induction n generalizing c d with
  | zero => rfl
  | succ n ih => simp only [crc8Shifts, crc8Shift_xor, ih]

theorem crc8Shifts_eq_zero {n : Nat} {c : Byte} (h : crc8Shifts n c = 0) : c = 0 := by
  induction n generalizing c with
  | zero => exact h
  | succ n ih => exact crc8Shift_eq_zero c (ih h)

theorem crc8Shifts_injective (n : Nat) : Function.Injective (crc8Shifts n) := fun c d h => by
  have hzero : crc8Shifts n (c ^^^ d) = 0 := by rw [crc8Shifts_xor, h, BitVec.xor_self]; rfl
  exact BitVec.xor_eq_zero_iff.1 (crc8Shifts_eq_zero hzero)

theorem crc8Step_self (c : Byte) : crc8Step c c = 0 := by
  rw [crc8Step, BitVec.xor_self]; rfl

theorem crc8Step_xor (c d a b : Byte) : crc8Step (c ^^^ d) (a ^^^ b) = crc8Step c a ^^^ crc8Step d b := by
  rw [crc8Step, crc8Step, crc8Step, ← crc8Shifts_xor]; congr 1; ac_rfl

theorem crc8Step_left_injective (b : Byte) : Function.Injective (crc8Step · b) := fun _ _ h =>
  (BitVec.xor_left_inj _).1 (crc8Shifts_injective 8 h)

theorem crc8Step_right_injective (c : Byte) : Function.Injective (crc8Step c) := fun _ _ h =>
  (BitVec.xor_right_inj _).1 (crc8Shifts_injective 8 h)

/-! ### The CRC of a sequence (R84, R85, R88) -/

theorem crc8_append (s t : List Byte) : crc8 (s ++ t) = t.foldl crc8Step (crc8 s) :=
  List.foldl_append

theorem foldl_crc8Step_zipWith {s t : List Byte} (c d : Byte) (h : s.length = t.length) :
    (List.zipWith (fun a b => a ^^^ b) s t).foldl crc8Step (c ^^^ d) =
      s.foldl crc8Step c ^^^ t.foldl crc8Step d := by
  induction s generalizing t c d with
  | nil => cases t <;> simp_all
  | cons a s ih =>
    obtain _ | ⟨b, t⟩ := t
    · simp at h
    · simpa [crc8Step_xor] using ih (crc8Step c a) (crc8Step d b) (by simpa using h)

theorem foldl_crc8Step_injective (t : List Byte) : Function.Injective (t.foldl crc8Step) := by
  induction t with
  | nil => exact Function.injective_id
  | cons b t ih => exact ih.comp (crc8Step_left_injective b)

/-- One byte changed changes the CRC. -/
theorem crc8_ne_of_byte_ne {s t : List Byte} {a b : Byte} (h : a ≠ b) : crc8 (s ++ a :: t) ≠ crc8 (s ++ b :: t) := by
  simp only [crc8_append, List.foldl_cons]
  exact fun heq => h (crc8Step_right_injective _ (foldl_crc8Step_injective t heq))

theorem one_shiftLeft_ne_zero {k : Nat} (h : k < 8) : (1 <<< k : Byte) ≠ 0 := by
  interval_cases k <;> decide

theorem xor_ne_self {b e : Byte} (h : e ≠ 0) : b ^^^ e ≠ b := fun heq =>
  h ((BitVec.xor_right_inj _).1 (heq.trans (BitVec.xor_zero).symm))

/-! ### The obligations -/

/-- Settles O39: the fold is associative, and a value is its own inverse. -/
theorem xorFoldLaws : Obligations.XorFoldLaws := fun s t =>
  ⟨xorFold_append s t, by rw [xorFold_concat, BitVec.xor_self]; rfl⟩

/-- Settles O40: linearity of the step, for every pair of starting registers. -/
theorem crcLaws : Obligations.CrcLaws := fun s t =>
  ⟨crc8_append s t, by rw [crc8_concat, crc8Step_self], by rw [crc8, List.foldl_cons, crc8Step_self]; rfl,
    fun h => foldl_crc8Step_zipWith 0 0 h⟩

/-- Settles O41: both sides depend on the exclusive-or of register and byte alone, and agree on its 256 values. -/
theorem crcStepEqualsTable : Obligations.CrcStepEqualsTable := by
  have htable : ∀ x : Byte, crc8Shifts 8 x = crc8Table.getD x.toNat 0 := by decide
  exact fun c b => htable (c ^^^ b)

/-- Settles O42: the fold moves by the flipped bit, and the CRC register after the flipped byte differs and stays
different. -/
theorem singleBitFlipsAreDetected : Obligations.SingleBitFlipsAreDetected := by
  intro s t b k hk
  have hbit := one_shiftLeft_ne_zero hk
  refine ⟨xorFold_flip s t b _, ?_, crc8_ne_of_byte_ne (xor_ne_self hbit)⟩
  rw [xorFold_flip]
  exact xor_ne_self hbit

end Sys2Proof
end

section
/-!
FrameCodec and ChecksumEngine as operations (40_checksum, 41_frame_codec R99, R104; 10_state R25): ENC builds the one
verified record of its operands, and DEC reads every verified record back, so the round trip and injectivity are facts
about records.
-/
namespace Sys2Proof

/-! ### The record of ENC's operands -/

/-- The record that ENC writes out: the size and the checksum are those of the payload and the covered bytes, and a
legacy flag is driven 0 (R29, R95, R96). -/
def RawFrame.encoded (g : Gen) (d : Dir) (flag : Byte) (cmd : Half) (payload : List Byte) : RawFrame :=
  let flag := if g = .legacy then 0 else flag
  let size := BitVec.ofNat 16 payload.length
  let covered := match g with
    | .legacy => coveredL (lo8 size) (lo8 cmd) payload
    | .extended => coveredX flag cmd size payload
  { gen := g, dir := d, flag := flag, cmd := cmd, size := size, payload := payload, checksum := checksumOf g covered }

theorem RawFrame.wire_encoded_legacy (d : Dir) (flag : Byte) (cmd : Half) (payload : List Byte) :
    (encoded .legacy d flag cmd payload).wire =
      frameLBytes d (BitVec.ofNat 8 payload.length) (lo8 cmd) payload
        (xorFold (coveredL (BitVec.ofNat 8 payload.length) (lo8 cmd) payload)) := by
  simp only [wire, encoded, checksumOf, lo8_ofNat]

theorem RawFrame.verified_encoded {g : Gen} {d : Dir} {flag : Byte} {cmd : Half} {payload : List Byte}
    (hlen : payload.length ≤ 65535) (hlegacy : g = .legacy → cmd.toNat ≤ 255 ∧ payload.length ≤ 255) :
    (encoded g d flag cmd payload).Verified := by
  have hsize : (BitVec.ofNat 16 payload.length).toNat = payload.length := by
    rw [BitVec.toNat_ofNat]; exact Nat.mod_eq_of_lt (by omega)
  refine ⟨hsize.symm, by cases g <;> rfl, ?_⟩
  rintro rfl
  exact ⟨rfl, (hlegacy rfl).1, hsize.trans_le (hlegacy rfl).2⟩

theorem RawFrame.verified_encoded_legacy {d : Dir} {flag : Byte} {cmd : Half} {payload : List Byte}
    (hcmd : cmd.toNat ≤ 255) (hlen : payload.length ≤ 255) : (encoded .legacy d flag cmd payload).Verified :=
  verified_encoded (by omega) fun _ => ⟨hcmd, hlen⟩

theorem RawFrame.verified_encoded_extended {d : Dir} {flag : Byte} {cmd : Half} {payload : List Byte}
    (hlen : payload.length ≤ 65535) : (encoded .extended d flag cmd payload).Verified :=
  verified_encoded hlen nofun

/-- A verified record is the one ENC writes out for its operands (R104). -/
theorem RawFrame.Verified.eq_encoded {f : RawFrame} (h : f.Verified) :
    f = .encoded f.gen f.dir f.flag f.cmd f.payload := by
  obtain ⟨gen, dir, flag, cmd, size, payload, checksum⟩ := f
  obtain ⟨hlen, hk, hlegacy⟩ := h
  simp only at hlen hlegacy
  obtain rfl : size = BitVec.ofNat 16 payload.length := by simp [hlen]
  cases gen with
  | legacy =>
    obtain rfl := (hlegacy rfl).1
    exact congrArg (RawFrame.mk _ _ _ _ _ _) hk
  | extended => exact congrArg (RawFrame.mk _ _ _ _ _ _) hk

theorem RawFrame.Verified.length_le {f : RawFrame} (h : f.Verified) :
    f.payload.length ≤ 65535 ∧ (f.gen = .legacy → f.cmd.toNat ≤ 255 ∧ f.payload.length ≤ 255) := by
  obtain ⟨hlen, -, hlegacy⟩ := h
  rw [hlen]
  exact ⟨Nat.le_of_lt_succ f.size.isLt, fun hg => (hlegacy hg).2⟩

/-- Different verified records have different wire bytes (R99). -/
theorem RawFrame.Verified.eq_of_wire_eq {f f' : RawFrame} (h : f.Verified) (h' : f'.Verified)
    (hw : f.wire = f'.wire) : f = f' := by
  have hdec := decodeFrame_wire h
  rw [hw, decodeFrame_wire h'] at hdec
  exact (Except.ok.inj hdec).symm

theorem RawFrame.getLast?_wire (f : RawFrame) : f.wire.getLast? = some f.checksum := by
  cases hg : f.gen <;> simp [wire, hg, frameLBytes, frameXBytes, List.getLast?_cons]

theorem RawFrame.length_wire (f : RawFrame) :
    f.wire.length = (match f.gen with | .legacy => 6 | .extended => 9) + f.payload.length := by
  cases hg : f.gen <;> simp only [wire, hg, length_frameLBytes, length_frameXBytes]

namespace Machine

/-! ### ENC and DEC as instructions -/

theorem withResult_inj {s : State} {r r' : OpResult} :
    (Host.Outcome.next (s.withResult r) : Answer) = .next (s.withResult r') ↔ r = r' :=
  ⟨fun h => congrArg State.result (Host.Outcome.next.inj h), fun h => h ▸ rfl⟩

theorem exec_encLegacy_eq_bytes {s : State} {d : Dir} {flag : Byte} {cmd : Half} {payload w : List Byte} :
    exec (.encLegacy d flag cmd payload) s = .next (s.withResult (.bytes w)) ↔
      cmd.toNat ≤ 255 ∧ payload.length ≤ 255 ∧ w = (RawFrame.encoded .legacy d flag cmd payload).wire := by
  rw [RawFrame.wire_encoded_legacy]
  rcases Nat.lt_or_ge 255 cmd.toNat with hcmd | hcmd
  · simp [exec_encLegacy_of_lt hcmd, Nat.not_le.2 hcmd]
  rw [exec_encLegacy_of_le hcmd, withResult_inj]
  rcases Nat.lt_or_ge 255 payload.length with hlen | hlen
  · simp [encodeLegacy_of_lt hlen, encResult, Nat.not_le.2 hlen]
  · simp [encodeLegacy_of_le hlen, encResult, hcmd, hlen, eq_comm]

theorem exec_encExtended_eq_bytes {s : State} {d : Dir} {flag : Byte} {cmd : Half} {payload w : List Byte} :
    exec (.encExtended d flag cmd payload) s = .next (s.withResult (.bytes w)) ↔
      payload.length ≤ 65535 ∧ w = (RawFrame.encoded .extended d flag cmd payload).wire := by
  rw [exec_encExtended, withResult_inj]
  rcases Nat.lt_or_ge 65535 payload.length with hlen | hlen
  · simp [encodeExtended_of_lt hlen, encResult, Nat.not_le.2 hlen]
  · rw [encodeExtended_of_le hlen]
    exact ⟨fun h => ⟨hlen, (OpResult.bytes.inj h).symm⟩, fun h => congrArg OpResult.bytes h.2.symm⟩

theorem exec_dec_eq_frame {s : State} {w : List Byte} {f : RawFrame} :
    exec (.dec w) s = .next (s.withResult (.frame f)) ↔ f.Verified ∧ w = f.wire := by
  rw [exec_dec, withResult_inj]
  exact decResult_eq_frame_iff_decCause

/-- DEC of the bytes ENC writes out gives the record of the operands. -/
theorem exec_dec_encoded {s : State} {g : Gen} {d : Dir} {flag : Byte} {cmd : Half} {payload : List Byte}
    (h : (RawFrame.encoded g d flag cmd payload).Verified) :
    exec (.dec (RawFrame.encoded g d flag cmd payload).wire) s =
      .next (s.withResult (.frame (.encoded g d flag cmd payload))) :=
  exec_dec_eq_frame.2 ⟨h, rfl⟩

/-! ### The obligations -/

/-- Settles O47: ENC's record is verified, so DEC reads it back; and a record DEC returns is ENC's of its operands. -/
theorem encDecRoundTrip : Obligations.EncDecRoundTrip := by
  intro s
  refine ⟨fun d flag cmd payload hcmd hlen => ?_, fun d flag cmd payload hlen => ?_, fun w f hdec => ?_⟩
  · exact ⟨_, _, exec_encLegacy_eq_bytes.2 ⟨hcmd, hlen, rfl⟩, RawFrame.getLast?_wire _,
      exec_dec_encoded (RawFrame.verified_encoded_legacy hcmd hlen)⟩
  · exact ⟨_, _, exec_encExtended_eq_bytes.2 ⟨hlen, rfl⟩, RawFrame.getLast?_wire _,
      exec_dec_encoded (RawFrame.verified_encoded_extended hlen)⟩
  · obtain ⟨hf, rfl⟩ := exec_dec_eq_frame.1 hdec
    obtain ⟨hlen, hlegacy⟩ := hf.length_le
    have hwire := congrArg RawFrame.wire hf.eq_encoded
    split <;> rename_i hg <;> rw [hg] at hwire
    · exact exec_encLegacy_eq_bytes.2 ⟨(hlegacy hg).1, (hlegacy hg).2, hwire⟩
    · exact exec_encExtended_eq_bytes.2 ⟨hlen, hwire⟩

/-- Settles O48: results are the wire bytes of verified records, and those determine the record. -/
theorem encIsInjective : Obligations.EncIsInjective := by
  intro s d d' flag flag' cmd cmd' payload payload' w
  refine ⟨fun h => ?_, fun h => ?_⟩
  · obtain ⟨hcmd, hlen, rfl⟩ := exec_encLegacy_eq_bytes.1 h
    have hv := RawFrame.verified_encoded_legacy (d := d) (flag := flag) hcmd hlen
    refine ⟨RawFrame.length_wire _, fun h' => ?_, fun h' => ?_⟩
    · obtain ⟨hcmd', hlen', hw⟩ := exec_encLegacy_eq_bytes.1 h'
      have heq := hv.eq_of_wire_eq (RawFrame.verified_encoded_legacy hcmd' hlen') hw
      exact ⟨congrArg RawFrame.dir heq, congrArg RawFrame.cmd heq, congrArg RawFrame.payload heq⟩
    · obtain ⟨hlen', hw⟩ := exec_encExtended_eq_bytes.1 h'
      exact nomatch congrArg RawFrame.gen (hv.eq_of_wire_eq (RawFrame.verified_encoded_extended hlen') hw)
  · obtain ⟨hlen, rfl⟩ := exec_encExtended_eq_bytes.1 h
    refine ⟨RawFrame.length_wire _, fun h' => ?_⟩
    obtain ⟨hlen', hw⟩ := exec_encExtended_eq_bytes.1 h'
    have heq := (RawFrame.verified_encoded_extended hlen).eq_of_wire_eq (RawFrame.verified_encoded_extended hlen') hw
    exact ⟨congrArg RawFrame.dir heq, congrArg RawFrame.flag heq, congrArg RawFrame.cmd heq,
      congrArg RawFrame.payload heq⟩

/-- Settles O37: the fold from the left is the fold from the right. -/
theorem csumLReturnsXorFold : Obligations.CsumLReturnsXorFold := fun s bytes => by
  rw [← xorFold_eq_foldr]; rfl

/-- Settles O38: the meaning is the register's fold over the bytes. -/
theorem csumXReturnsCrc : Obligations.CsumXReturnsCrc := fun _ _ => rfl

/-- Settles O49: each of the five answers through `State.answer`, ENC legacy where it is not refused. -/
theorem pureOperationsChangeNothing : Obligations.PureOperationsChangeNothing := by
  rintro s t i (⟨bytes, rfl | rfl | rfl⟩ | ⟨d, flag, cmd, payload, rfl | rfl⟩) h
  case inr.inl =>
    rcases Nat.lt_or_ge 255 cmd.toNat with hcmd | hcmd
    · rw [exec_encLegacy_of_lt hcmd] at h; cases h
    · rw [exec_encLegacy_of_le hcmd] at h; cases h; rfl
  all_goals cases h; rfl

/-- Settles O50: the meaning of RST, written out (R167). -/
theorem rstRestartsTheParser : Obligations.RstRestartsTheParser := fun _ => rfl

/-- Settles O51: the state at reset has these values, and its buffer lists no byte. -/
theorem resetValues : Obligations.ResetValues := ⟨rfl, rfl, rfl, rfl, rfl, fun _ => rfl⟩

end Machine
end Sys2Proof
end

section
/-!
Decode and step (30_encoding R73, R74, R78; 42_stream_parser R133): which request each instruction is encoded as decides
how it is decoded and how it runs, so the rows are taken apart by their request kind once.
-/
namespace Sys2Proof

/-! ### The FRAME rows (R54, R55, R73) -/

theorem encode_frameInstr (f : RawFrame) : encode (frameInstr f) = .frame f.wire := by
  obtain ⟨gen, dir, flag, cmd, size, payload, k⟩ := f
  cases gen <;> cases dir <;> rfl

theorem wellFormed_frameInstr_ofLegacy (d : Dir) (size cmd : Byte) (payload : List Byte) (k : Byte) :
    (frameInstr (.ofLegacy d size cmd payload k)).wellFormed = wellFormedL size cmd payload k := by
  cases d <;> simp [frameInstr, RawFrame.ofLegacy, Instr.wellFormed]

theorem wellFormed_frameInstr_ofExtended (d : Dir) (flag : Byte) (cmd size : Half) (payload : List Byte) (k : Byte) :
    (frameInstr (.ofExtended d flag cmd size payload k)).wellFormed = wellFormedX flag cmd size payload k := by
  cases d <;> rfl

theorem wellFormedL_iff_verified {d : Dir} {size cmd : Byte} {payload : List Byte} {k : Byte} :
    wellFormedL size cmd payload k = true ↔ (RawFrame.ofLegacy d size cmd payload k).Verified := by
  simp [wellFormedL, RawFrame.verified_ofLegacy]

theorem wellFormedX_iff_verified {d : Dir} {flag : Byte} {cmd size : Half} {payload : List Byte} {k : Byte} :
    wellFormedX flag cmd size payload k = true ↔ (RawFrame.ofExtended d flag cmd size payload k).Verified := by
  simp [wellFormedX, RawFrame.verified_ofExtended]

theorem RawFrame.Verified.wellFormed_frameInstr {f : RawFrame} (h : f.Verified) : (frameInstr f).wellFormed = true := by
  obtain hf | hf := h.eq_ofLegacy_or_eq_ofExtended <;> rw [hf] at h ⊢
  · rw [wellFormed_frameInstr_ofLegacy]; exact wellFormedL_iff_verified.2 h
  · rw [wellFormed_frameInstr_ofExtended]; exact wellFormedX_iff_verified.2 h

/-- An instruction whose request is a frame's bytes is the row of a frame record. -/
theorem exists_eq_frameInstr {i : Instr} {w : List Byte} (h : encode i = .frame w) :
    (∃ d size cmd payload k, i = frameInstr (.ofLegacy d size cmd payload k)) ∨
      ∃ d flag cmd size payload k, i = frameInstr (.ofExtended d flag cmd size payload k) := by
  cases i <;> cases h
  case frameLTo size cmd payload k =>
    exact .inl ⟨.toDevice, size, cmd, payload, k, by simp [frameInstr, RawFrame.ofLegacy]⟩
  case frameLFrom size cmd payload k =>
    exact .inl ⟨.fromDevice, size, cmd, payload, k, by simp [frameInstr, RawFrame.ofLegacy]⟩
  case frameLErr size cmd payload k =>
    exact .inl ⟨.error, size, cmd, payload, k, by simp [frameInstr, RawFrame.ofLegacy]⟩
  case frameXTo flag cmd size payload k => exact .inr ⟨.toDevice, flag, cmd, size, payload, k, rfl⟩
  case frameXFrom flag cmd size payload k => exact .inr ⟨.fromDevice, flag, cmd, size, payload, k, rfl⟩
  case frameXErr flag cmd size payload k => exact .inr ⟨.error, flag, cmd, size, payload, k, rfl⟩

/-- A well-formed FRAME instruction is the row of a verified record, and its request is the record's wire bytes. -/
theorem exists_verified_of_encode_frame {i : Instr} {w : List Byte} (hi : i.wellFormed = true)
    (h : encode i = .frame w) : ∃ f : RawFrame, f.Verified ∧ i = frameInstr f ∧ w = f.wire := by
  have hwire {f : RawFrame} (hf : i = frameInstr f) : w = f.wire := by
    rw [hf, encode_frameInstr] at h; exact (Request.frame.inj h).symm
  obtain ⟨d, size, cmd, payload, k, hf⟩ | ⟨d, flag, cmd, size, payload, k, hf⟩ := exists_eq_frameInstr h
  · rw [hf, wellFormed_frameInstr_ofLegacy] at hi
    exact ⟨_, wellFormedL_iff_verified.1 hi, hf, hwire hf⟩
  · rw [hf, wellFormed_frameInstr_ofExtended] at hi
    exact ⟨_, wellFormedX_iff_verified.1 hi, hf, hwire hf⟩

theorem decodeFrameRow_eq_ok {w : List Byte} {i : Instr} :
    decodeFrameRow w = .ok i ↔ ∃ f : RawFrame, f.Verified ∧ w = f.wire ∧ i = frameInstr f := by
  have hdec (f : RawFrame) : decodeFrame w = .ok f ↔ f.Verified ∧ w = f.wire := decodeFrame_eq_iff_decCause
  rw [decodeFrameRow]
  cases hw : decodeFrame w with
  | ok f =>
    obtain ⟨hf, hfw⟩ := (hdec f).1 hw
    refine ⟨fun h => ⟨f, hf, hfw, (Except.ok.inj h).symm⟩, ?_⟩
    rintro ⟨f', hf', hfw', rfl⟩
    rw [hf.eq_of_wire_eq hf' (hfw.symm.trans hfw')]
  | error e =>
    refine ⟨nofun, ?_⟩
    rintro ⟨f, hf, hfw, rfl⟩
    rw [(hdec f).2 ⟨hf, hfw⟩] at hw
    cases hw

namespace Machine

/-! ### The RXBYTE rows (R133) -/

section Rx

variable {c : RxContext} {b : Byte} {i : Instr}

/-- The row a byte selects is well-formed and carries that byte. -/
theorem wellFormed_and_encode_of_selectRow (h : selectRow c b = .ok i) : i.wellFormed = true ∧ encode i = .rx b := by
  cases hp : c.phase with
  | idle =>
    rw [selectRow_idle hp] at h
    split at h <;> rename_i hb <;> cases h
    · exact ⟨rfl, congrArg Request.rx hb.symm⟩
    · exact ⟨decide_eq_true hb, rfl⟩
  | sawStart =>
    rw [selectRow_sawStart hp] at h
    split at h
    · subst b; cases h; exact ⟨rfl, rfl⟩
    split at h
    · subst b; cases h; exact ⟨rfl, rfl⟩
    · cases h; exact ⟨Option.isNone_iff_eq_none.2 (genOfMarker_eq_none.2 ⟨‹_›, ‹_›⟩), rfl⟩
  | sawGenerationMarker =>
    rw [selectRow_sawGenerationMarker hp] at h
    split at h
    · subst b; cases h; exact ⟨rfl, rfl⟩
    split at h
    · subst b; cases h; exact ⟨rfl, rfl⟩
    split at h
    · subst b; cases h; exact ⟨rfl, rfl⟩
    · cases h; exact ⟨Option.isNone_iff_eq_none.2 (dirOfMarker_eq_none.2 ⟨‹_›, ‹_›, ‹_›⟩), rfl⟩
  | sawDirection => simp [selectRow, hp] at h
  | readingFlag =>
    cases hg : c.gen with
    | legacy => simp [selectRow, hp, hg] at h
    | extended => cases (selectRow_readingFlag hp hg).symm.trans h; exact ⟨rfl, rfl⟩
  | readingSize =>
    cases hg : c.gen with
    | legacy => rw [selectRow_readingSize_legacy hp hg] at h; split at h <;> cases h <;> exact ⟨rfl, rfl⟩
    | extended =>
      cases hi : c.idx with
      | low => cases (selectRow_readingSize_low hp hg hi).symm.trans h; exact ⟨rfl, rfl⟩
      | high => rw [selectRow_readingSize_high hp hg hi] at h; split at h <;> cases h <;> exact ⟨rfl, rfl⟩
  | readingCommand =>
    cases hg : c.gen with
    | legacy => cases (selectRow_readingCommand_legacy hp hg).symm.trans h; exact ⟨rfl, rfl⟩
    | extended =>
      cases hi : c.idx with
      | low => cases (selectRow_readingCommand_low hp hg hi).symm.trans h; exact ⟨rfl, rfl⟩
      | high => cases (selectRow_readingCommand_high hp hg hi).symm.trans h; exact ⟨rfl, rfl⟩
  | readingPayload =>
    by_cases hr : c.rem = 0
    · simp [selectRow, hp, hr] at h
    · cases (selectRow_readingPayload hp hr).symm.trans h; exact ⟨rfl, rfl⟩
  | readingChecksum => rw [selectRow_readingChecksum hp] at h; split at h <;> cases h <;> exact ⟨rfl, rfl⟩

theorem exists_ite_ok {ε α : Type} (p : Prop) [Decidable p] (x y : α) :
    ∃ z, (if p then (.ok x : Except ε α) else .ok y) = .ok z := by
  split <;> exact ⟨_, rfl⟩

theorem exists_selectRow_of_held (h : heldContext c = true) : ∃ i, selectRow c b = .ok i := by
  cases hp : c.phase with
  | idle => rw [selectRow_idle hp]; exact exists_ite_ok ..
  | sawStart =>
    rw [selectRow_sawStart hp]
    split
    · exact ⟨_, rfl⟩
    · exact exists_ite_ok ..
  | sawGenerationMarker =>
    rw [selectRow_sawGenerationMarker hp]
    split
    · exact ⟨_, rfl⟩
    split
    · exact ⟨_, rfl⟩
    · exact exists_ite_ok ..
  | sawDirection => simp [heldContext, hp] at h
  | readingFlag => exact ⟨_, selectRow_readingFlag hp (by simpa [heldContext, hp] using h)⟩
  | readingSize =>
    cases hg : c.gen with
    | legacy => rw [selectRow_readingSize_legacy hp hg]; exact exists_ite_ok ..
    | extended =>
      cases hi : c.idx with
      | low => exact ⟨_, selectRow_readingSize_low hp hg hi⟩
      | high => rw [selectRow_readingSize_high hp hg hi]; exact exists_ite_ok ..
  | readingCommand =>
    cases hg : c.gen with
    | legacy => exact ⟨_, selectRow_readingCommand_legacy hp hg⟩
    | extended =>
      cases hi : c.idx with
      | low => exact ⟨_, selectRow_readingCommand_low hp hg hi⟩
      | high => exact ⟨_, selectRow_readingCommand_high hp hg hi⟩
  | readingPayload => exact ⟨_, selectRow_readingPayload hp (by simpa [heldContext, hp] using h)⟩
  | readingChecksum => rw [selectRow_readingChecksum hp]; exact exists_ite_ok ..

/-- The three kinds of context that are never held (R128). -/
theorem heldContext_eq_false :
    heldContext c = false ↔
      c.phase = .sawDirection ∨ c.phase = .readingFlag ∧ c.gen = .legacy ∨ c.phase = .readingPayload ∧ c.rem = 0 := by
  have hgen : c.gen ≠ .extended ↔ c.gen = .legacy := by cases c.gen <;> simp
  cases hp : c.phase <;> simp [heldContext, hp, hgen]

theorem selectRow_of_not_held (h : heldContext c = false) : selectRow c b = .error .unreachableContext := by
  obtain hp | ⟨hp, hg⟩ | ⟨hp, hr⟩ := heldContext_eq_false.1 h
  · simp only [selectRow, hp]
  · simp only [selectRow, hp, hg]
  · simp only [selectRow, hp, if_pos hr]

end Rx

/-! ### The OP rows (R74) -/

theorem decodeOp_of_unused {select : BitVec 3} (x : Operands) (h : 6 ≤ select.toNat) :
    decodeOp select x = .error (.unusedSelect select) := by
  have hne (k : BitVec 3) (hk : k.toNat < 6) : select ≠ k := by rintro rfl; omega
  simp only [decodeOp, if_neg (hne 0 (by decide)), if_neg (hne 1 (by decide)), if_neg (hne 2 (by decide)),
    if_neg (hne 3 (by decide)), if_neg (hne 4 (by decide)), if_neg (hne 5 (by decide))]

theorem decodeEnc_legacy (d : Dir) (flag : Byte) (cmd : Half) (payload : List Byte) :
    decodeEnc (genCode .legacy) (dirCode d) flag cmd payload =
      if cmd.toNat ≤ 255 then .ok (.encLegacy d flag cmd payload) else .error .legacyCommandTooWide := by
  simp only [decodeEnc, dirOfCode_dirCode, genOfCode_genCode]

theorem decodeEnc_extended (d : Dir) (flag : Byte) (cmd : Half) (payload : List Byte) :
    decodeEnc (genCode .extended) (dirCode d) flag cmd payload = .ok (.encExtended d flag cmd payload) := by
  simp only [decodeEnc, dirOfCode_dirCode, genOfCode_genCode]

theorem wellFormed_and_encode_of_decodeEnc {g : BitVec 1} {d : BitVec 2} {flag : Byte} {cmd : Half}
    {payload : List Byte} {i : Instr} (h : decodeEnc g d flag cmd payload = .ok i) :
    i.wellFormed = true ∧ encode i = .op 4 (.enc g d flag cmd payload) := by
  cases hd : dirOfCode d with
  | none => rw [decodeEnc, hd] at h; cases h
  | some dir =>
    obtain rfl := dirOfCode_eq_some.1 hd
    obtain ⟨gen, rfl⟩ : ∃ gen, g = genCode gen := ⟨genOfCode g, (genCode_genOfCode g).symm⟩
    cases gen with
    | legacy => rw [decodeEnc_legacy] at h; split at h <;> cases h; exact ⟨decide_eq_true ‹_›, rfl⟩
    | extended => cases (decodeEnc_extended ..).symm.trans h; exact ⟨rfl, rfl⟩

theorem wellFormed_and_encode_of_decodeOp {select : BitVec 3} {x : Operands} {i : Instr}
    (h : decodeOp select x = .ok i) : i.wellFormed = true ∧ encode i = .op select x := by
  unfold decodeOp at h
  split at h
  · subst select; split at h <;> cases h; exact ⟨rfl, rfl⟩
  split at h
  · subst select; split at h <;> cases h; exact ⟨rfl, rfl⟩
  split at h
  · subst select; split at h <;> cases h; exact ⟨rfl, rfl⟩
  split at h
  · subst select; split at h <;> cases h; exact ⟨rfl, rfl⟩
  split at h
  · subst select
    split at h
    · exact wellFormed_and_encode_of_decodeEnc h
    · cases h
  split at h
  · subst select; split at h <;> cases h; exact ⟨rfl, rfl⟩
  · cases h

theorem decode_of_encode_op (c : RxContext) {i : Instr} {select : BitVec 3} {x : Operands} (hi : i.wellFormed = true)
    (h : encode i = .op select x) : decode c (.op select x) = .ok i := by
  cases i <;> cases h
  case encLegacy d flag cmd payload =>
    exact (decodeEnc_legacy d flag cmd payload).trans (if_pos (of_decide_eq_true hi))
  case encExtended d flag cmd payload => exact decodeEnc_extended d flag cmd payload
  all_goals rfl

/-! ### How the rows of each request kind run -/

theorem exec_of_encode_frame {i : Instr} {w : List Byte} (h : encode i = .frame w) (s : State) :
    exec i s = feedBytes w s := by
  cases i <;> cases h <;> rfl

theorem exec_of_not_selected {i : Instr} {b : Byte} {s : State} (h : encode i = .rx b)
    (hrow : selectRow s.rxContext b ≠ .ok i) : exec i s = .refused .rowNotSelected := by
  cases i <;> cases h <;> exact State.onRow_of_not_selected _ hrow

theorem pushByte_of_not_held {s : State} {b : Byte} (h : heldContext s.rxContext = false) :
    pushByte b s = .refused .unreachableState := by
  rw [pushByte]
  obtain hp | ⟨hp, hg⟩ | ⟨hp, hr⟩ := heldContext_eq_false.1 h <;> rw [show s.parser.phase = _ from hp]
  · dsimp only; rw [pushReadingFlag, show s.parser.gen = .legacy from hg]
  · exact if_pos hr

/-! ### The obligations -/

/-- Settles O3: a well-formed FRAME instruction is the row of a verified record, which DEC reads back. -/
theorem frameRowsRoundTrip : Obligations.FrameRowsRoundTrip := by
  intro c i w hi h
  obtain ⟨f, hf, rfl, rfl⟩ := exists_verified_of_encode_frame hi h
  exact decodeFrameRow_eq_ok.2 ⟨f, hf, rfl, rfl⟩

/-- Settles O5: for each request kind, what the decoder answers is well-formed and encodes back. -/
theorem decodedRequestsReencode : Obligations.DecodedRequestsReencode := by
  intro c r i h
  cases r with
  | op select x => exact wellFormed_and_encode_of_decodeOp h
  | feed chunk => cases h; exact ⟨rfl, rfl⟩
  | rx b => exact wellFormed_and_encode_of_selectRow h
  | frame w =>
    obtain ⟨f, hf, rfl, rfl⟩ := decodeFrameRow_eq_ok.1 h
    exact ⟨hf.wellFormed_frameInstr, encode_frameInstr f⟩

/-- Settles O8: a row that is selected runs the push of its byte. -/
theorem pushRunsTheSelectedRow : Obligations.PushRunsTheSelectedRow := fun _ _ _ h =>
  (exec_eq_pushByte_of_selectRow h).symm

/-- Settles O1: the three branches of `step`. -/
theorem stepRunsTheDecodedRequest : Obligations.StepRunsTheDecodedRequest := by
  refine fun s => ⟨fun h => by rw [step, h], fun r rest h => ⟨fun i hi => ?_, fun e he => ?_⟩⟩
  · rw [step, h]; dsimp only; rw [hi]
  · rw [step, h]; dsimp only; rw [he]

/-- Settles O2: the frames are those of well-formed instructions, and the other requests are evaluated. -/
theorem writtenOutWordsDecode : Obligations.WrittenOutWordsDecode := fun c =>
  ⟨frameRowsRoundTrip c (.frameLTo 3 100 [1, 2, 3] 0x67) _ (by decide) rfl,
    frameRowsRoundTrip c (.frameXFrom 0xA5 0x1234 2 [0xDE, 0xAD] 0x19) _ (by decide +kernel) (by decide),
    rfl, rfl, rfl, rfl, rfl, rfl, rfl⟩

/-- Settles O4: the select code picks the operation, and FEED carries its chunk. -/
theorem operationsRoundTrip : Obligations.OperationsRoundTrip := fun c i hi =>
  ⟨fun _ _ h => decode_of_encode_op c hi h, fun chunk h => by cases i <;> cases h; rfl⟩

/-- Settles O6: each phase that can be held has a row for every byte, and the three others have none. -/
theorem heldContextsSelectOneRow : Obligations.HeldContextsSelectOneRow := fun _ _ =>
  ⟨exists_selectRow_of_held, selectRow_of_not_held⟩

/-- Settles O7: the decoder refuses the two codes before it looks at the operands. -/
theorem unusedSelectsAreRefused : Obligations.UnusedSelectsAreRefused := by
  intro s select x rest h hpending
  rw [step, hpending]
  dsimp only [decode]
  rw [decodeOp_of_unused x h]

/-- Settles O11: the three kinds of context that are never held. -/
theorem unreachablePhasesRefusePush : Obligations.UnreachablePhasesRefusePush := fun _ _ h =>
  pushByte_of_not_held h

/-- Settles O12: every RXBYTE row is guarded by the table. -/
theorem unselectedRowsAreRefused : Obligations.UnselectedRowsAreRefused := fun _ _ _ h hrow =>
  exec_of_not_selected h hrow

/-- Settles O32: the six FRAME rows are the feed of their bytes. -/
theorem frameRowsAreFedBytes : Obligations.FrameRowsAreFedBytes := fun s _ _ h => exec_of_encode_frame h s

end Machine
end Sys2Proof
end

section
/-!
StreamParser (42_stream_parser): what any push and any sequence of pushes can do. What one byte changes is read off
`PushCase`; what a sequence changes is an induction over its bytes; and every instruction is refused, resets the parser
or pushes some bytes, which carries those facts to `exec` and `step`.
-/
namespace Sys2Proof.Machine

/-! ### The payload buffer over a range (R36 to R38) -/

theorem Memory.read_writeRange (m : Memory) (a k : Nat) (vs : List Byte) :
    Memory.read (Memory.writeRange m a vs) k =
      if a ≤ k ∧ k < a + vs.length then vs[k - a]? else Memory.read m k := by
  induction vs generalizing m a with
  | nil => rw [if_neg (by simp)]; rfl
  | cons v vs ih =>
    rw [Memory.writeRange, ih, List.length_cons]
    obtain hk | rfl | hk := lt_trichotomy k a
    · rw [if_neg (by omega), if_neg (by omega), Memory.read_write_other _ _ (by omega)]
    · rw [if_neg (by omega), if_pos (by omega), Memory.read_write_same, Nat.sub_self]; rfl
    · rw [Memory.read_write_other _ _ (by omega), show k - a = k - (a + 1) + 1 by omega, List.getElem?_cons_succ]
      exact if_congr (by omega) rfl rfl

theorem Memory.readRange_writeRange (m : Memory) (a : Nat) (vs : List Byte) :
    Memory.readRange (Memory.writeRange m a vs) a vs.length = some vs := by
  refine Memory.readRange_eq_some.2 ⟨rfl, fun k hk => ?_⟩
  rw [Memory.read_writeRange, if_pos (by omega), Nat.add_sub_cancel_left]

/-! ### What one byte leaves unchanged -/

section Byte

variable {s t : State} {b : Byte}

/-- A byte's step is the common part of R111 around some registers, with at most one outcome. -/
theorem PushCase.exists_afterByte (hc : PushCase s b t) : ∃ p outs, t = s.afterByte p outs ∧ outs.length ≤ 1 := by
  cases hc <;> exact ⟨_, _, rfl, by simp⟩

theorem PushCase.gen_eq (hc : PushCase s b t) (h : s.parser.phase ≠ .sawStart) : t.parser.gen = s.parser.gen := by
  cases hc with
  | generation g hp => exact absurd hp h
  | _ => rfl

theorem PushCase.dir_eq (hc : PushCase s b t) (h : s.parser.phase ≠ .sawGenerationMarker) :
    t.parser.dir = s.parser.dir := by
  cases hc with
  | direction d hp => exact absurd hp h
  | _ => rfl

theorem PushCase.flag_eq (hc : PushCase s b t) (h : s.parser.phase ≠ .readingFlag) :
    t.parser.flag = s.parser.flag := by
  cases hc with
  | flag hp => exact absurd hp h
  | _ => rfl

theorem PushCase.cmd_eq (hc : PushCase s b t) (h : s.parser.phase ≠ .readingCommand) :
    t.parser.cmd = s.parser.cmd := by
  cases hc with
  | legacyCommand hp | commandLow hp | commandHigh hp => exact absurd hp h
  | _ => rfl

theorem PushCase.size_eq (hc : PushCase s b t) (h : s.parser.phase ≠ .readingSize) :
    t.parser.size = s.parser.size := by
  cases hc with
  | legacySize hp | legacySizeOver hp | sizeLow hp | sizeHigh hp | sizeHighOver hp => exact absurd hp h
  | _ => rfl

theorem PushCase.idx_eq (hc : PushCase s b t)
    (h : s.parser.phase ∉ [Phase.sawGenerationMarker, .readingFlag, .readingSize, .readingCommand]) :
    t.parser.idx = s.parser.idx := by
  cases hc with
  | direction _ hp | flag hp | commandLow hp | commandHigh hp | sizeLow hp | sizeHigh hp | sizeHighOver hp =>
    simp [hp] at h
  | _ => rfl

theorem PushCase.rem_eq (hc : PushCase s b t)
    (h : s.parser.phase ∉ [Phase.readingSize, .readingCommand, .readingPayload]) : t.parser.rem = s.parser.rem := by
  cases hc with
  | legacyCommand hp | sizeHigh hp | payload hp => simp [hp] at h
  | _ => rfl

theorem PushCase.acc_eq (hc : PushCase s b t)
    (h : s.parser.phase ∉
      [Phase.sawGenerationMarker, .readingFlag, .readingSize, .readingCommand, .readingPayload]) :
    t.parser.acc = s.parser.acc := by
  cases hc with
  | direction _ hp | flag hp | legacySize hp | legacySizeOver hp | legacyCommand hp | commandLow hp | commandHigh hp
  | sizeLow hp | sizeHigh hp | sizeHighOver hp | payload hp => simp [hp] at h
  | _ => rfl

theorem PushCase.read_pbuf_eq (hc : PushCase s b t) {a : Nat}
    (h : ¬(s.parser.phase = .readingPayload ∧ a = s.parser.payloadIndex)) :
    Memory.read t.parser.pbuf a = Memory.read s.parser.pbuf a := by
  cases hc with
  | payload hp => exact Memory.read_write_other _ _ fun ha => h ⟨hp, ha⟩
  | _ => rfl

/-- Only a byte in `Idle` or a byte with an outcome leaves the parser in `Idle`. -/
theorem PushCase.phase_ne_idle (hc : PushCase s b t) (h : s.parser.phase ≠ .idle) (hout : t.out = s.out) :
    t.parser.phase ≠ .idle := by
  have hheader (v : Half) : phaseAfterHeader v ≠ .idle := by unfold phaseAfterHeader; split <;> simp
  cases hc with
  | skip hp => exact absurd hp h
  | start | generation | flag | legacySize | commandLow | commandHigh | sizeLow => exact nofun
  | direction => cases hg : s.parser.gen <;> simp [hg]
  | legacyCommand | sizeHigh => exact hheader _
  | payload => exact hheader _
  | badGeneration | badDirection | legacySizeOver | sizeHighOver | delivered | badChecksum => simp at hout

end Byte

/-! ### What a sequence of bytes changes -/

/-- What any number of pushes do to the machine apart from the parser's registers: `n` bytes are counted, the outcomes
`outs` are appended, and nothing else moves (R129 to R132). -/
structure State.Extends (s t : State) (n : Nat) (outs : List StreamOutcome) : Prop where
  out : t.out = s.out ++ outs
  offset : t.parser.offset = s.parser.offset + BitVec.ofNat 64 n
  params : t.params = s.params
  past : t.past = s.past
  pending : t.pending = s.pending

theorem State.extends_refl (s : State) : s.Extends s 0 [] :=
  ⟨(List.append_nil _).symm, (BitVec.add_zero _).symm, rfl, rfl, rfl⟩

theorem offset_add_assoc (o : Offset) (m n : Nat) :
    o + BitVec.ofNat 64 m + BitVec.ofNat 64 n = o + BitVec.ofNat 64 (m + n) := by
  rw [BitVec.add_assoc, BitVec.ofNat_add]

theorem State.extends_afterByte (s : State) (p : Parser) (outs : List StreamOutcome) :
    s.Extends (s.afterByte p outs) 1 outs := ⟨rfl, rfl, rfl, rfl, rfl⟩

theorem State.Extends.trans {s t u : State} {m n : Nat} {outs outs' : List StreamOutcome} (h : s.Extends t m outs)
    (h' : t.Extends u n outs') : s.Extends u (m + n) (outs ++ outs') where
  out := by rw [h'.out, h.out, List.append_assoc]
  offset := by rw [h'.offset, h.offset, offset_add_assoc]
  params := h'.params.trans h.params
  past := h'.past.trans h.past
  pending := h'.pending.trans h.pending

theorem pushAll_singleton (b : Byte) (s : State) : pushAll [b] s = pushByte b s := by
  unfold pushAll; cases pushByte b s <;> rfl

theorem pushAll_cons_of_next {s t : State} {b : Byte} (bytes : List Byte) (h : pushByte b s = .next t) :
    pushAll (b :: bytes) s = pushAll bytes t := by
  rw [pushAll, h]

theorem pushAll_append_of_next {s t : State} {xs : List Byte} (ys : List Byte) (h : pushAll xs s = .next t) :
    pushAll (xs ++ ys) s = pushAll ys t := by
  rw [pushAll_append, h]

/-- An answered sequence is an answered push and an answered rest. -/
theorem pushAll_cons_next {s t : State} {b : Byte} {bytes : List Byte} :
    pushAll (b :: bytes) s = .next t ↔ ∃ u, PushCase s b u ∧ pushAll bytes u = .next t := by
  constructor
  · intro h
    rw [pushAll] at h
    split at h
    · exact ⟨_, pushByte_cases ‹_›, h⟩
    · cases h
    · cases h
  · rintro ⟨u, hc, h⟩
    rwa [pushAll_cons_of_next bytes hc.pushByte_eq]

theorem pushAll_extends {s t : State} {bytes : List Byte} (h : pushAll bytes s = .next t) :
    ∃ outs, s.Extends t bytes.length outs ∧ outs.length ≤ bytes.length := by
  induction bytes generalizing s with
  | nil => cases h; exact ⟨[], State.extends_refl _, le_rfl⟩
  | cons b bytes ih =>
    obtain ⟨u, hc, h⟩ := pushAll_cons_next.1 h
    obtain ⟨p, outs, rfl, hlen⟩ := hc.exists_afterByte
    obtain ⟨outs', hrest, hlen'⟩ := ih h
    refine ⟨outs ++ outs', ?_, by simp only [List.length_append, List.length_cons]; omega⟩
    rw [List.length_cons, Nat.add_comm]
    exact (s.extends_afterByte p outs).trans hrest

/-- What holds of a state and is kept by every push holds after every answered sequence. -/
theorem pushAll_induction {P : State → Prop} (hstep : ∀ {s b t}, P s → PushCase s b t → P t) {s t : State}
    {bytes : List Byte} (hs : P s) (h : pushAll bytes s = .next t) : P t := by
  induction bytes generalizing s with
  | nil => cases h; exact hs
  | cons b bytes ih =>
    obtain ⟨u, hc, h⟩ := pushAll_cons_next.1 h
    exact ih (hstep hs hc) h

/-- Outside `Idle`, bytes that report nothing do not end the frame. -/
theorem pushAll_phase_ne_idle {s t : State} {bytes : List Byte} (h : pushAll bytes s = .next t)
    (hp : s.parser.phase ≠ .idle) (hout : t.out = s.out) : t.parser.phase ≠ .idle := by
  induction bytes generalizing s with
  | nil => cases h; exact hp
  | cons b bytes ih =>
    obtain ⟨u, hc, h⟩ := pushAll_cons_next.1 h
    obtain ⟨p, outs, rfl, -⟩ := hc.exists_afterByte
    obtain ⟨outs', hrest, -⟩ := pushAll_extends h
    rw [hrest.out, State.afterByte_out, List.append_assoc] at hout
    obtain ⟨rfl, rfl⟩ := List.append_eq_nil_iff.1 (List.append_cancel_left (hout.trans (List.append_nil _).symm))
    exact ih h (hc.phase_ne_idle hp (List.append_nil _)) (hrest.out.trans (List.append_nil _))

/-! ### The returned value is never read (R35) -/

theorem forgetAnswer_eq_next {a : Answer} {t : State} (h : forgetAnswer a = forgetAnswer (.next t)) :
    ∃ u, a = .next u ∧ t = u.withResult t.result := by
  cases a with
  | next u =>
    have ht : u.forgetResult = t.forgetResult := Host.Outcome.next.inj h
    exact ⟨u, rfl, (congrArg (State.withResult · t.result) ht).symm⟩
  | fault f => cases h
  | refused r => cases h

theorem pushByte_withResult (b : Byte) (s : State) (r : OpResult) : pushByte b (s.withResult r) = pushByte b s := rfl

theorem forgetAnswer_pushAll_withResult (bytes : List Byte) (s : State) (r : OpResult) :
    forgetAnswer (pushAll bytes (s.withResult r)) = forgetAnswer (pushAll bytes s) := by
  cases bytes with
  | nil => rfl
  | cons b bytes => rw [pushAll, pushByte_withResult]; rfl

theorem feedBytes_of_pushAll {s t : State} {bytes : List Byte} {outs : List StreamOutcome}
    (h : pushAll bytes s = .next t) (hout : t.out = s.out ++ outs) :
    feedBytes bytes s = .next (t.withResult (.outcomes outs)) :=
  feedBytes_next.2 ⟨t, h, by rw [hout, List.drop_left]⟩

theorem forgetAnswer_feedBytes (bytes : List Byte) (s : State) :
    forgetAnswer (feedBytes bytes s) = forgetAnswer (pushAll bytes s) := by
  unfold feedBytes; cases pushAll bytes s <;> rfl

theorem exec_feed (bytes : List Byte) (s : State) : exec (.feed bytes) s = feedBytes bytes s := rfl
theorem exec_push (b : Byte) (s : State) : exec (.push b) s = pushByte b s := rfl

/-! ### What any instruction can do -/

/-- Every instruction is refused, resets the parser, or does what pushing some bytes does but for the returned value;
the operations without parser state push none. -/
theorem exec_cases (i : Instr) (s : State) :
    (∃ r, exec i s = .refused r) ∨ exec i s = .next s.restart ∨
      ∃ bytes, forgetAnswer (exec i s) = forgetAnswer (pushAll bytes s) := by
  cases hi : encode i with
  | frame w => exact .inr (.inr ⟨w, by rw [exec_of_encode_frame hi, forgetAnswer_feedBytes]⟩)
  | rx b =>
    by_cases hrow : selectRow s.rxContext b = .ok i
    · exact .inr (.inr ⟨[b], by rw [exec_eq_pushByte_of_selectRow hrow, pushAll_singleton]⟩)
    · exact .inl ⟨_, exec_of_not_selected hi hrow⟩
  | feed chunk => cases i <;> cases hi; exact .inr (.inr ⟨chunk, forgetAnswer_feedBytes chunk s⟩)
  | op select x =>
    cases i <;> cases hi
    case op.rst => exact .inr (.inl rfl)
    case op.push b => exact .inr (.inr ⟨[b], by rw [exec_push, pushAll_singleton]⟩)
    case op.encLegacy d flag cmd payload =>
      rcases Nat.lt_or_ge 255 cmd.toNat with hcmd | hcmd
      · exact .inl ⟨_, exec_encLegacy_of_lt hcmd⟩
      · exact .inr (.inr ⟨[], by rw [exec_encLegacy_of_le hcmd]; rfl⟩)
    all_goals exact .inr (.inr ⟨[], rfl⟩)

/-- The same of a step, from the state without the request it takes. -/
theorem step_cases (s : State) :
    (∃ r, step s = .refused r) ∨ ∃ rest, step s = .next (State.restart { s with pending := rest }) ∨
      ∃ bytes, forgetAnswer (step s) = forgetAnswer (pushAll bytes { s with pending := rest }) := by
  obtain ⟨hidle, hrun⟩ := stepRunsTheDecodedRequest s
  cases hpending : s.pending with
  | nil =>
    have hs : { s with pending := [] } = s := by rw [← hpending]
    exact .inr ⟨[], .inr ⟨[], by rw [hs, hidle hpending]; rfl⟩⟩
  | cons r rest =>
    obtain ⟨hok, herror⟩ := hrun r rest hpending
    cases hdecode : decode s.rxContext r with
    | ok i =>
      rw [hok i hdecode]
      exact (exec_cases i _).imp_right fun h => ⟨rest, h⟩
    | error e => exact .inl ⟨_, herror e hdecode⟩

/-- An answered step is a reset or a sequence of pushes. -/
theorem step_next_cases {s t : State} (h : step s = .next t) :
    ∃ rest, t = State.restart { s with pending := rest } ∨
      ∃ bytes u r, pushAll bytes { s with pending := rest } = .next u ∧ t = u.withResult r := by
  obtain ⟨r, hr⟩ | ⟨rest, hr | ⟨bytes, hr⟩⟩ := step_cases s <;> rw [h] at hr
  · cases hr
  · exact ⟨rest, .inl (Host.Outcome.next.inj hr)⟩
  · obtain ⟨u, hu, ht⟩ := forgetAnswer_eq_next hr.symm
    exact ⟨rest, .inr ⟨bytes, u, _, hu, ht⟩⟩

/-! ### The obligations -/

/-- Settles O10: register by register, the cases that write it lie in the phases named. -/
theorem pushFrame : Obligations.PushFrame := by
  intro s t b h
  have hc := pushByte_cases h
  obtain ⟨p, outs, ht, -⟩ := hc.exists_afterByte
  have hext : s.Extends t 1 outs := ht ▸ s.extends_afterByte p outs
  exact ⟨hext.params, hext.past, hext.pending, hext.offset, hc.gen_eq, hc.dir_eq, hc.flag_eq, hc.cmd_eq, hc.size_eq,
    hc.idx_eq, hc.rem_eq, hc.acc_eq, fun _ => hc.read_pbuf_eq⟩

/-- Settles O24: the five cases that append an Error outcome. -/
theorem errorEntryIsPrecise : Obligations.ErrorEntryIsPrecise := by
  intro s t b e o h hout
  cases pushByte_cases h with
  | badGeneration | badDirection | badChecksum =>
    cases List.append_cancel_left hout
    exact ⟨rfl, .inl ⟨by simp, rfl⟩⟩
  | legacySizeOver | sizeHighOver =>
    cases List.append_cancel_left hout
    exact ⟨rfl, .inr ⟨rfl, _, _, _, rfl⟩⟩
  | _ => simp at hout

/-- Settles O25: no byte exceeds 255 and no half exceeds 65535. -/
theorem defaultCapacityNeverOverflows : Obligations.DefaultCapacityNeverOverflows := by
  intro s t b o hparams h hout
  cases pushByte_cases h with
  | legacySizeOver _ _ hb =>
    rw [hparams] at hb
    exact absurd b.isLt (Nat.not_lt.2 hb)
  | sizeHighOver _ _ _ hb =>
    rw [hparams] at hb
    exact absurd (withHigh s.parser.size b).isLt (Nat.not_lt.2 hb)
  | _ => simp at hout

/-- Settles O27: FEED runs `pushAll`, whose first push is PUSH. -/
theorem feedIsPushesInOrder : Obligations.FeedIsPushesInOrder := by
  intro s b bytes
  refine ⟨feedBytes_of_pushAll (bytes := []) rfl (List.append_nil _).symm, fun t h => ⟨?_, ?_⟩, fun r h => ?_,
    fun f h => ?_⟩
  · obtain ⟨p, outs, rfl, -⟩ := (pushByte_cases h).exists_afterByte
    exact feedBytes_of_pushAll ((pushAll_singleton b s).trans h) rfl
  · rw [exec_feed, exec_feed, forgetAnswer_feedBytes, forgetAnswer_feedBytes, pushAll_cons_of_next bytes h]
  · rw [exec_feed, feedBytes, pushAll, show pushByte b s = _ from h]
  · rw [exec_feed, feedBytes, pushAll, show pushByte b s = _ from h]

/-- Settles O28, by induction on the chunks: pushing a concatenation is pushing its parts, and the value that a FEED
returns is never read. -/
theorem chunkingInvariance : Obligations.ChunkingInvariance := by
  intro s chunks
  rw [exec_feed, forgetAnswer_feedBytes]
  induction chunks generalizing s with
  | nil => rfl
  | cons c cs ih =>
    rw [feedChunks, List.flatten_cons, pushAll_append, exec_feed, feedBytes]
    cases pushAll c s with
    | next t => exact (ih _).trans (forgetAnswer_pushAll_withResult cs.flatten t _)
    | fault f => rfl
    | refused r => rfl

/-- Settles O55: no push and no reset writes the parameters. -/
theorem parametersNeverChange : Obligations.ParametersNeverChange := by
  intro s t h
  obtain ⟨rest, rfl | ⟨bytes, u, r, hu, rfl⟩⟩ := step_next_cases h
  · rfl
  · obtain ⟨outs, hext, -⟩ := pushAll_extends hu
    exact hext.params

/-- Settles O56: pushes append to the stream, and a reset closes it. -/
theorem outcomesAreNeverWithdrawn : Obligations.OutcomesAreNeverWithdrawn := by
  intro s t h
  obtain ⟨rest, rfl | ⟨bytes, u, r, hu, rfl⟩⟩ := step_next_cases h
  · exact .inr ⟨rfl, rfl⟩
  · obtain ⟨outs, hext, -⟩ := pushAll_extends hu
    exact .inl ⟨hext.past, outs, hext.out⟩

/-- Settles O59: every index of the range reads its byte, and every other index as before. -/
theorem bufferRangeReadsBack : Obligations.BufferRangeReadsBack := fun m a vs =>
  ⟨Memory.readRange_writeRange m a vs, fun k hk => by rw [Memory.read_writeRange, if_neg (by omega)]⟩

end Sys2Proof.Machine
end

section
/-!
The machine's invariant (10_state R22, R26, R29; 42_stream_parser R128, R132, R135): every case of PUSH keeps it, in
every state of it some case applies, and so every sequence of pushes completes and keeps it.
-/
namespace Sys2Proof.Machine

/-! ### Every case of PUSH keeps the invariant -/

section Keep

variable {k : Params} {p : Parser}

/-- A header just completed: nothing of the payload has been received, and the checksum covers the header. -/
theorem Parser.phaseOk_afterHeader (h : p.phase = phaseAfterHeader p.size) (hrem : p.rem = p.size)
    (hfits : k.Fits p.gen p.size) (hcmd : p.CommandFits) (hacc : p.acc = checksumOf p.gen p.coveredHeader) :
    p.PhaseOk k := by
  have hholds : p.HoldsPayload 0 := ⟨[], rfl, by rw [List.append_nil, hacc]⟩
  by_cases hz : p.size = 0
  · exact (Parser.phaseOk_readingChecksum (h.trans (if_pos hz))).2
      ⟨hfits, hcmd, hrem.trans hz, by rw [hz]; exact hholds⟩
  · exact (Parser.phaseOk_readingPayload (h.trans (if_neg hz))).2
      ⟨hfits, hcmd, hrem ▸ half_one_le hz, hrem ▸ le_rfl, by rw [hrem, Nat.sub_self]; exact hholds⟩

/-- A payload byte extends the payload held by one (R124, R135). -/
theorem Parser.HoldsPayload.takePayload {n : Nat} (h : p.HoldsPayload n) (hindex : p.payloadIndex = n) (b : Byte) :
    (p.takePayload b).HoldsPayload (n + 1) := by
  obtain ⟨bs, hread, hacc⟩ := h
  refine ⟨bs ++ [b], ?_, ?_⟩
  · rw [Parser.takePayload_pbuf, hindex]; exact Memory.readRange_write_next b hread
  · rw [Parser.takePayload_acc, Parser.accumulate, hacc, ← checksumOf_concat, List.append_assoc]; rfl

theorem Parser.phaseOk_takePayload (b : Byte) (hp : p.phase = .readingPayload) (h : p.PhaseOk k) :
    (p.takePayload b).PhaseOk k := by
  obtain ⟨hfits, hcmd, hpos, hle, hholds⟩ := (Parser.phaseOk_readingPayload hp).1 h
  have hnext := hholds.takePayload (Parser.payloadIndex_of_le hle) b
  by_cases hlast : p.rem - 1 = 0
  · have hone : p.rem.toNat = 1 := congrArg BitVec.toNat (half_pred_eq_zero.1 hlast)
    rw [hone, Nat.sub_add_cancel (hone ▸ hle)] at hnext
    exact (Parser.phaseOk_readingChecksum (if_pos hlast)).2 ⟨hfits, hcmd, hlast, hnext⟩
  · have hpred := half_toNat_pred hpos
    refine (Parser.phaseOk_readingPayload (if_neg hlast)).2 ⟨hfits, hcmd, half_one_le hlast, ?_, ?_⟩
    · rw [Parser.takePayload_rem, Parser.takePayload_size, hpred]; omega
    · rw [Parser.takePayload_rem, Parser.takePayload_size, hpred,
        show p.size.toNat - (p.rem.toNat - 1) = p.size.toNat - p.rem.toNat + 1 by omega]
      exact hnext

end Keep

variable {s t : State} {b : Byte}

theorem PushCase.phaseOk (hc : PushCase s b t) (h : s.parser.PhaseOk s.params) : t.parser.PhaseOk t.params := by
  cases hc with
  | start | skip | generation | badGeneration | badDirection | legacySizeOver | sizeHighOver | delivered
  | badChecksum => exact Parser.phaseOk_of_scanning (by simp)
  | direction d =>
    show Parser.PhaseOk s.params (s.parser.takeDirection d)
    cases hg : s.parser.gen with
    | legacy =>
      have hnext : (s.parser.takeDirection d).phase = .readingSize := congrArg phaseAfterDirection hg
      exact (Parser.phaseOk_readingSize_legacy hnext hg).2 rfl
    | extended =>
      have hnext : (s.parser.takeDirection d).phase = .readingFlag := congrArg phaseAfterDirection hg
      exact (Parser.phaseOk_readingFlag hnext).2 ⟨hg, rfl, rfl⟩
  | flag hp hg =>
    obtain ⟨-, hacc, -⟩ := (Parser.phaseOk_readingFlag hp).1 h
    exact (Parser.phaseOk_readingCommand_low (p := s.parser.takeFlag b) rfl hg rfl).2 (congrArg (crc8Step · b) hacc)
  | legacySize hp hg hb =>
    have hacc := (Parser.phaseOk_readingSize_legacy hp hg).1 h
    refine (Parser.phaseOk_readingCommand_legacy (p := s.parser.takeLegacySize b) rfl hg).2
      ⟨(zext16_toNat b).trans_le hb, ?_⟩
    simp [hacc, xorFold]
  | legacyCommand hp hg =>
    obtain ⟨hfits, hacc⟩ := (Parser.phaseOk_readingCommand_legacy hp hg).1 h
    refine Parser.phaseOk_afterHeader (p := s.parser.takeLegacyCommand b) rfl rfl (hg ▸ hfits) (fun _ => ?_) ?_
    · exact (zext16_toNat b).trans_le (Nat.le_of_lt_succ b.isLt)
    · simp [Parser.coveredHeader, checksumOf, hg, hacc, coveredL, xorFold]
  | commandLow hp hg hi =>
    have hacc := (Parser.phaseOk_readingCommand_low hp hg hi).1 h
    refine (Parser.phaseOk_readingCommand_high (p := s.parser.takeCommandLow b) rfl hg rfl).2 ?_
    simp [hacc, crc8]
  | commandHigh hp hg hi =>
    have hacc := (Parser.phaseOk_readingCommand_high hp hg hi).1 h
    refine (Parser.phaseOk_readingSize_low (p := s.parser.takeCommandHigh b) rfl hg rfl).2 ?_
    simp [hacc, crc8]
  | sizeLow hp hg hi =>
    have hacc := (Parser.phaseOk_readingSize_low hp hg hi).1 h
    refine (Parser.phaseOk_readingSize_high (p := s.parser.takeSizeLow b) rfl hg rfl).2 ?_
    simp [hacc, crc8]
  | sizeHigh hp hg hi hb =>
    have hacc := (Parser.phaseOk_readingSize_high hp hg hi).1 h
    have hfits : s.params.Fits s.parser.gen (withHigh s.parser.size b) := hg ▸ hb
    refine Parser.phaseOk_afterHeader (p := (s.parser.takeSizeHigh b).startPayload) rfl rfl hfits
      (fun hl => nomatch hg.symm.trans hl) ?_
    simp [Parser.coveredHeader, checksumOf, hg, hacc, coveredX, crc8]
  | payload hp => exact Parser.phaseOk_takePayload b hp h

theorem PushCase.within (hc : PushCase s b t) (h : Memory.Within s.parser.pbuf s.params.pbufCap) :
    Memory.Within t.parser.pbuf t.params.pbufCap := by
  cases hc with
  | payload _ _ hindex => exact h.write b hindex
  | _ => exact h

/-- A Frame outcome is a verified frame: its payload is the one the checksum ran over (R29, R125). -/
theorem Parser.verified_rawFrame {k : Params} {p : Parser} {payload : List Byte} (hp : p.phase = .readingChecksum)
    (h : p.PhaseOk k) (hread : Memory.readRange p.pbuf 0 p.size.toNat = some payload) :
    (p.rawFrame payload p.acc).Verified := by
  obtain ⟨hfits, hcmd, -, bs, hbs, hacc⟩ := (Parser.phaseOk_readingChecksum hp).1 h
  obtain rfl : bs = payload := Option.some.inj (hbs.symm.trans hread)
  refine ⟨Memory.length_readRange hread, ?_, fun hg => ?_⟩
  · refine hacc.trans (congrArg (checksumOf p.gen) ?_)
    cases hg : p.gen <;> simp [Parser.coveredHeader, RawFrame.covered, Parser.rawFrame, hg, coveredL, coveredX]
  · have hg : p.gen = .legacy := hg
    rw [hg] at hfits
    exact ⟨by simp only [Parser.rawFrame, hg], hcmd hg, le_trans hfits (Nat.le_of_lt_succ k.maxLegacy.isLt)⟩

theorem PushCase.sound (hc : PushCase s b t) (h : s.parser.PhaseOk s.params) (hout : ∀ o ∈ s.out, o.Sound) :
    ∀ o ∈ t.out, o.Sound := by
  have happend {outs : List StreamOutcome} (houts : ∀ o ∈ outs, o.Sound) : ∀ o ∈ s.out ++ outs, o.Sound :=
    fun o ho => (List.mem_append.1 ho).elim (hout o) (houts o)
  cases hc with
  | delivered payload hp hb _ hread =>
    subst hb
    exact happend fun o ho => List.mem_singleton.1 ho ▸ Parser.verified_rawFrame hp h hread
  | badGeneration | badDirection | legacySizeOver | sizeHighOver | badChecksum =>
    exact happend fun o ho => List.mem_singleton.1 ho ▸ trivial
  | _ => exact happend nofun

theorem State.Inv.of_pushCase (h : s.Inv) (hc : PushCase s b t) : t.Inv := by
  obtain ⟨hphase, hwithin, hout, hpast⟩ := h
  refine ⟨hc.phaseOk hphase, hc.within hwithin, hc.sound hphase hout, ?_⟩
  obtain ⟨p, outs, rfl, -⟩ := hc.exists_afterByte
  exact hpast

/-! ### In every state of the invariant some case applies (R132, R133) -/

theorem State.Inv.exists_pushCase (h : s.Inv) (b : Byte) : ∃ t, PushCase s b t := by
  obtain ⟨hphase, -, -, -⟩ := h
  cases hp : s.parser.phase with
  | idle =>
    by_cases hb : b = startMarker
    · exact ⟨_, .start hp hb⟩
    · exact ⟨_, .skip hp hb⟩
  | sawStart =>
    cases hb : genOfMarker b with
    | none => exact ⟨_, .badGeneration hp hb⟩
    | some g => exact ⟨_, .generation g hp (genOfMarker_eq_some.1 hb)⟩
  | sawGenerationMarker =>
    cases hb : dirOfMarker b with
    | none => exact ⟨_, .badDirection hp hb⟩
    | some d => exact ⟨_, .direction d hp (dirOfMarker_eq_some.1 hb)⟩
  | sawDirection => exact absurd hphase (Parser.not_phaseOk_sawDirection hp)
  | readingFlag => exact ⟨_, .flag hp ((Parser.phaseOk_readingFlag hp).1 hphase).1⟩
  | readingSize =>
    cases hg : s.parser.gen with
    | legacy =>
      by_cases hb : b ≤ s.params.maxLegacy
      · exact ⟨_, .legacySize hp hg hb⟩
      · exact ⟨_, .legacySizeOver hp hg (BitVec.not_le.1 hb)⟩
    | extended =>
      cases hi : s.parser.idx with
      | low => exact ⟨_, .sizeLow hp hg hi⟩
      | high =>
        by_cases hb : withHigh s.parser.size b ≤ s.params.maxExt
        · exact ⟨_, .sizeHigh hp hg hi hb⟩
        · exact ⟨_, .sizeHighOver hp hg hi (BitVec.not_le.1 hb)⟩
  | readingCommand =>
    cases hg : s.parser.gen with
    | legacy => exact ⟨_, .legacyCommand hp hg⟩
    | extended =>
      cases hi : s.parser.idx with
      | low => exact ⟨_, .commandLow hp hg hi⟩
      | high => exact ⟨_, .commandHigh hp hg hi⟩
  | readingPayload =>
    obtain ⟨hfits, -, hpos, hle, -⟩ := (Parser.phaseOk_readingPayload hp).1 hphase
    refine ⟨_, .payload hp (fun hz => ?_) ?_⟩
    · rw [hz] at hpos; exact absurd hpos (by decide)
    · rw [Parser.payloadIndex_of_le hle]; have := hfits.le_pbufCap; omega
  | readingChecksum =>
    obtain ⟨hfits, -, -, payload, hread, -⟩ := (Parser.phaseOk_readingChecksum hp).1 hphase
    by_cases hb : b = s.parser.acc
    · exact ⟨_, .delivered payload hp hb hfits.le_pbufCap hread⟩
    · exact ⟨_, .badChecksum hp hb⟩

/-- Every sequence of pushes completes in the invariant and keeps it. -/
theorem State.Inv.exists_pushAll (h : s.Inv) (bytes : List Byte) : ∃ t, pushAll bytes s = .next t ∧ t.Inv := by
  induction bytes generalizing s with
  | nil => exact ⟨s, rfl, h⟩
  | cons b bytes ih =>
    obtain ⟨u, hc⟩ := h.exists_pushCase b
    obtain ⟨t, ht, hinv⟩ := ih (h.of_pushCase hc)
    exact ⟨t, pushAll_cons_next.2 ⟨u, hc, ht⟩, hinv⟩

theorem State.Inv.of_pushAll (h : s.Inv) {bytes : List Byte} (ht : pushAll bytes s = .next t) : t.Inv :=
  pushAll_induction State.Inv.of_pushCase h ht

theorem State.Inv.restart (h : s.Inv) : s.restart.Inv := by
  obtain ⟨-, hwithin, hout, hpast⟩ := h
  refine ⟨Parser.phaseOk_of_scanning (.inl rfl), hwithin, nofun, fun l hl => ?_⟩
  rcases List.mem_append.1 hl with hl | hl
  · exact hpast l hl
  · exact List.mem_singleton.1 hl ▸ hout

theorem State.inv_withResult {r : OpResult} : (s.withResult r).Inv ↔ s.Inv := Iff.rfl

theorem State.inv_withPending {rest : List Request} : State.Inv { s with pending := rest } ↔ s.Inv := Iff.rfl

/-! ### The obligations -/

/-- Settles O53: a step is a reset or a sequence of pushes, and each keeps the invariant. -/
theorem stepKeepsInv : Obligations.StepKeepsInv := by
  intro s t hs h
  obtain ⟨rest, rfl | ⟨bytes, u, r, hu, rfl⟩⟩ := step_next_cases h
  · exact (State.inv_withPending.2 hs).restart
  · exact State.inv_withResult.2 ((State.inv_withPending.2 hs).of_pushAll hu)

/-- Settles O9: some case applies, and every case is a byte's step. -/
theorem pushConsumesEveryByte : Obligations.PushConsumesEveryByte := by
  intro s b h
  obtain ⟨t, hc⟩ := h.exists_pushCase b
  obtain ⟨p, outs, rfl, hlen⟩ := hc.exists_afterByte
  exact ⟨p, outs, hc.pushByte_eq, hlen⟩

/-- Settles O26: the bytes are all pushed, and what pushes do adds up. -/
theorem feedConsumesEveryByte : Obligations.FeedConsumesEveryByte := by
  intro s bytes h
  obtain ⟨t, ht, -⟩ := h.exists_pushAll bytes
  obtain ⟨outs, hext, hlen⟩ := pushAll_extends ht
  exact ⟨_, outs, feedBytes_of_pushAll ht hext.out, hext.out, rfl, hlen, hext.offset, hext.params, hext.past,
    hext.pending⟩

/-- Settles O54: whatever a step runs is refused, a reset or a sequence of pushes, and pushes complete. -/
theorem invStatesNeverFault : Obligations.InvStatesNeverFault := by
  refine fun s h => ⟨fun f hf => ?_, fun b r hr => ?_, fun bytes r hr => ?_⟩
  · obtain ⟨r, hr⟩ | ⟨rest, hr | ⟨bytes, hr⟩⟩ := step_cases s <;> rw [hf] at hr
    · cases hr
    · cases hr
    · obtain ⟨t, ht, -⟩ := (State.inv_withPending (rest := rest).2 h).exists_pushAll bytes
      rw [ht] at hr
      cases hr
  · obtain ⟨t, hc⟩ := h.exists_pushCase b
    cases hc.pushByte_eq.symm.trans hr
  · obtain ⟨t, ht, -⟩ := h.exists_pushAll bytes
    obtain ⟨outs, hext, -⟩ := pushAll_extends ht
    cases (feedBytes_of_pushAll ht hext.out).symm.trans hr

/-- Settles O52: in `Idle` the registers are free, and nothing has been written or emitted. -/
theorem resetMeetsInv : Obligations.ResetMeetsInv :=
  ⟨Parser.phaseOk_of_scanning (.inl rfl), ⟨Memory.wf_reset, nofun⟩, nofun, nofun⟩

end Sys2Proof.Machine
end

section
/-!
Stale registers (10_state R26, R32, R33; 70_reset_and_hazards R169, R170): agreement on what is live is kept by every
case of PUSH, with equal outcomes, so two parsers that agree cannot be told apart by anything fed to them.
-/
namespace Sys2Proof.Machine

/-! ### Agreement on what is live -/

/-- Buffers that agree below an index agree up to it once the same byte is written there. -/
theorem Memory.read_write_congr {m m' : Memory} {n : Nat} (b : Byte)
    (h : ∀ a < n, Memory.read m a = Memory.read m' a) :
    ∀ a < n + 1, Memory.read (Memory.write m n b) a = Memory.read (Memory.write m' n b) a := by
  intro a ha
  rw [Memory.read_write, Memory.read_write]
  split
  · rfl
  · exact h a (by omega)

section Live

variable {p q : Parser}

theorem Parser.sameLive_of_idle (hp : p.phase = .idle) (hq : q.phase = .idle) (ho : p.offset = q.offset) :
    p.SameLive q := by
  simp [Parser.SameLive, hp, hq, ho]

/-- What the end of a header leaves live, with a payload to come or not. -/
theorem Parser.sameLive_afterHeader (hp : p.phase = phaseAfterHeader p.size) (hq : q.phase = phaseAfterHeader q.size)
    (ho : p.offset = q.offset) (hgen : p.gen = q.gen) (hdir : p.dir = q.dir) (hacc : p.acc = q.acc)
    (hflag : p.gen = .extended → p.flag = q.flag) (hcmd : p.cmd = q.cmd) (hsize : p.size = q.size)
    (hpr : p.rem = p.size) (hqr : q.rem = q.size) : p.SameLive q := by
  by_cases hz : q.size = 0
  · rw [hsize, phaseAfterHeader, if_pos hz] at hp
    rw [phaseAfterHeader, if_pos hz] at hq
    simp only [Parser.SameLive, hp, hq, hsize, hz]
    exact ⟨trivial, ho, hgen, hdir, hacc, hflag, hcmd, trivial, nofun⟩
  · rw [hsize, phaseAfterHeader, if_neg hz] at hp
    rw [phaseAfterHeader, if_neg hz] at hq
    simp only [Parser.SameLive, hp, hq, hpr, hqr, hsize, Nat.sub_self]
    exact ⟨trivial, ho, hgen, hdir, hacc, hflag, hcmd, trivial, trivial, nofun⟩

/-- A payload byte makes the index it is stored at live, and the last one leads on to the checksum (R124). -/
theorem Parser.SameLive.takePayload (h : p.SameLive q) (hp : p.phase = .readingPayload) (hrem : p.rem ≠ 0)
    (hle : p.rem.toNat ≤ p.size.toNat) (b : Byte) {o : Offset} :
    Parser.SameLive { p.takePayload b with offset := o } { q.takePayload b with offset := o } := by
  simp only [Parser.SameLive, hp] at h
  obtain ⟨-, -, hgen, hdir, hacc, hflag, hcmd, hsize, hrem', hread⟩ := h
  have hpred := half_toNat_pred (half_one_le hrem)
  have hindex : q.payloadIndex = p.payloadIndex := by rw [Parser.payloadIndex, Parser.payloadIndex, hsize, hrem']
  have hacc' : p.accumulate b = q.accumulate b := by rw [Parser.accumulate, Parser.accumulate, hgen, hacc]
  have hread' := Memory.read_write_congr b hread
  rw [← Parser.payloadIndex_of_le hle] at hread'
  have hlive : p.payloadIndex + 1 = p.size.toNat - (p.rem - 1).toNat := by
    rw [Parser.payloadIndex_of_le hle]; have := half_one_le hrem; omega
  rw [hlive] at hread'
  by_cases hlast : q.rem - 1 = 0
  · rw [hrem', hlast] at hread'
    simp only [Parser.SameLive, Parser.takePayload, hrem', if_pos hlast, hindex]
    exact ⟨trivial, trivial, hgen, hdir, hacc', hflag, hcmd, hsize, hread'⟩
  · rw [hrem'] at hread'
    simp only [Parser.SameLive, Parser.takePayload, hrem', if_neg hlast, hindex]
    exact ⟨trivial, trivial, hgen, hdir, hacc', hflag, hcmd, hsize, trivial, hread'⟩

/-- What is live before the checksum is all that the record holds (R125, R29). -/
theorem Parser.SameLive.rawFrame_eq (h : p.SameLive q) (hp : p.phase = .readingChecksum) (payload : List Byte)
    (k : Byte) : p.rawFrame payload k = q.rawFrame payload k := by
  simp only [Parser.SameLive, hp] at h
  obtain ⟨-, -, hgen, hdir, -, hflag, hcmd, hsize, -⟩ := h
  have hflag' : (if q.gen = .extended then p.flag else 0) = if q.gen = .extended then q.flag else 0 := by
    split
    · exact hflag (hgen.trans ‹_›)
    · rfl
  rw [Parser.rawFrame_eq, Parser.rawFrame_eq, hgen, hdir, hcmd, hsize, hflag']

end Live

/-! ### A byte's step keeps agreement -/

variable {s t s' : State} {b : Byte}

/-- The step of one parser is matched by the other's, with the same outcomes and agreement afterwards. -/
theorem PushCase.simulate (hc : PushCase s b s') (hs : s.Inv) (hk : s.params = t.params)
    (h : s.parser.SameLive t.parser) :
    ∃ t' outs, PushCase t b t' ∧ s'.out = s.out ++ outs ∧ t'.out = t.out ++ outs ∧ s'.parser.SameLive t'.parser := by
  have hlive := h
  obtain ⟨hphase, ho, h⟩ := h
  have ho' : s.parser.offset + 1 = t.parser.offset + 1 := congrArg (· + 1) ho
  cases hc with
  | start hp hb =>
    exact ⟨_, _, .start (hphase ▸ hp) hb, rfl, rfl, by simp [Parser.SameLive, ho]⟩
  | skip hp hb => exact ⟨_, _, .skip (hphase ▸ hp) hb, rfl, rfl, Parser.sameLive_of_idle rfl rfl ho'⟩
  | generation g hp hb =>
    exact ⟨_, _, .generation g (hphase ▸ hp) hb, rfl, rfl, by simp [Parser.SameLive, ho]⟩
  | badGeneration hp hb =>
    exact ⟨_, _, .badGeneration (hphase ▸ hp) hb, rfl, by rw [ho]; rfl, Parser.sameLive_of_idle rfl rfl ho'⟩
  | direction d hp hb =>
    simp only [hp] at h
    refine ⟨_, _, .direction d (hphase ▸ hp) hb, rfl, rfl, ?_⟩
    cases hg : t.parser.gen <;> simp [Parser.SameLive, ho, h, hg]
  | badDirection hp hb =>
    exact ⟨_, _, .badDirection (hphase ▸ hp) hb, rfl, by rw [ho]; rfl, Parser.sameLive_of_idle rfl rfl ho'⟩
  | flag hp hg =>
    simp only [hp] at h
    obtain ⟨hgen, hdir, hacc⟩ := h
    have hg' := hgen.symm.trans hg
    exact ⟨_, _, .flag (hphase ▸ hp) hg', rfl, rfl, by simp [Parser.SameLive, ho, hg, hg', hdir, hacc]⟩
  | legacySize hp hg hb =>
    simp only [hp, hg] at h
    obtain ⟨hgen, hdir, hacc, -⟩ := h
    exact ⟨_, _, .legacySize (hphase ▸ hp) hgen.symm (hk ▸ hb), rfl, rfl,
      by simp [Parser.SameLive, ho, hg, ← hgen, hdir, hacc]⟩
  | legacySizeOver hp hg hb =>
    simp only [hp, hg] at h
    obtain ⟨hgen, -⟩ := h
    exact ⟨_, _, .legacySizeOver (hphase ▸ hp) hgen.symm (hk ▸ hb), rfl, by rw [ho]; rfl,
      Parser.sameLive_of_idle rfl rfl ho'⟩
  | legacyCommand hp hg =>
    simp only [hp, hg] at h
    obtain ⟨hgen, hdir, hacc, hsize⟩ := h
    exact ⟨_, _, .legacyCommand (hphase ▸ hp) hgen.symm, rfl, rfl,
      Parser.sameLive_afterHeader rfl rfl ho' (hg.trans hgen) hdir (congrArg (· ^^^ b) hacc)
        (fun hx => nomatch hg.symm.trans hx) rfl hsize rfl rfl⟩
  | commandLow hp hg hi =>
    simp only [hp, hg] at h
    obtain ⟨hgen, hdir, hacc, hflag, hidx, -⟩ := h
    exact ⟨_, _, .commandLow (hphase ▸ hp) hgen.symm (hidx ▸ hi), rfl, rfl,
      by simp [Parser.SameLive, ho, hg, ← hgen, hdir, hacc, hflag]⟩
  | commandHigh hp hg hi =>
    simp only [hp, hg] at h
    obtain ⟨hgen, hdir, hacc, hflag, hidx, hlow⟩ := h
    exact ⟨_, _, .commandHigh (hphase ▸ hp) hgen.symm (hidx ▸ hi), rfl, rfl,
      by simp [Parser.SameLive, ho, hg, ← hgen, hdir, hacc, hflag, withHigh, hlow hi]⟩
  | sizeLow hp hg hi =>
    simp only [hp, hg] at h
    obtain ⟨hgen, hdir, hacc, hflag, hcmd, hidx, -⟩ := h
    exact ⟨_, _, .sizeLow (hphase ▸ hp) hgen.symm (hidx ▸ hi), rfl, rfl,
      by simp [Parser.SameLive, ho, hg, ← hgen, hdir, hacc, hflag, hcmd]⟩
  | sizeHigh hp hg hi hb =>
    simp only [hp, hg] at h
    obtain ⟨hgen, hdir, hacc, hflag, hcmd, hidx, hlow⟩ := h
    have hsize : withHigh s.parser.size b = withHigh t.parser.size b := by rw [withHigh, withHigh, hlow hi]
    exact ⟨_, _, .sizeHigh (hphase ▸ hp) hgen.symm (hidx ▸ hi) (hk ▸ hsize ▸ hb), rfl, rfl,
      Parser.sameLive_afterHeader rfl rfl ho' (hg.trans hgen) hdir (congrArg (crc8Step · b) hacc) (fun _ => hflag) hcmd
        hsize rfl rfl⟩
  | sizeHighOver hp hg hi hb =>
    simp only [hp, hg] at h
    obtain ⟨hgen, -, -, -, -, hidx, hlow⟩ := h
    have hsize : withHigh s.parser.size b = withHigh t.parser.size b := by rw [withHigh, withHigh, hlow hi]
    exact ⟨_, _, .sizeHighOver (hphase ▸ hp) hgen.symm (hidx ▸ hi) (hk ▸ hsize ▸ hb), rfl, by rw [ho]; rfl,
      Parser.sameLive_of_idle rfl rfl ho'⟩
  | payload hp hr hi =>
    simp only [hp] at h
    obtain ⟨-, -, -, -, -, hsize, hrem, -⟩ := h
    obtain ⟨hok, -, -, -⟩ := hs
    obtain ⟨-, -, -, hle, -⟩ := (Parser.phaseOk_readingPayload hp).1 hok
    have hindex : s.parser.payloadIndex = t.parser.payloadIndex := by
      rw [Parser.payloadIndex, Parser.payloadIndex, hsize, hrem]
    refine ⟨_, _, .payload (hphase ▸ hp) (hrem ▸ hr) (hk ▸ hindex ▸ hi), rfl, rfl, ?_⟩
    rw [State.afterByte_parser, State.afterByte_parser, ho]
    exact hlive.takePayload hp hr hle b
  | delivered payload hp hb hcap hread =>
    simp only [hp] at h
    obtain ⟨-, -, hacc, -, -, hsize, hbytes⟩ := h
    have hread' : Memory.readRange t.parser.pbuf 0 t.parser.size.toNat = some payload := by
      rw [← hsize, ← hread]
      exact Memory.readRange_congr fun a _ ha => (hbytes a (by omega)).symm
    exact ⟨_, _, .delivered payload (hphase ▸ hp) (hacc ▸ hb) (hk ▸ hsize ▸ hcap) hread', rfl,
      by rw [hlive.rawFrame_eq hp]; rfl, Parser.sameLive_of_idle rfl rfl ho'⟩
  | badChecksum hp hb =>
    simp only [hp] at h
    obtain ⟨-, -, hacc, -⟩ := h
    exact ⟨_, _, .badChecksum (hphase ▸ hp) (hacc ▸ hb), rfl, by rw [ho]; rfl, Parser.sameLive_of_idle rfl rfl ho'⟩

/-- The same of every sequence of bytes. -/
theorem pushAll_simulate {bytes : List Byte} (h : pushAll bytes s = .next s') (hs : s.Inv) (hk : s.params = t.params)
    (hlive : s.parser.SameLive t.parser) :
    ∃ t' outs, pushAll bytes t = .next t' ∧ s'.out = s.out ++ outs ∧ t'.out = t.out ++ outs ∧
      s'.parser.SameLive t'.parser := by
  induction bytes generalizing s t with
  | nil => cases h; exact ⟨t, [], rfl, (List.append_nil _).symm, (List.append_nil _).symm, hlive⟩
  | cons b bytes ih =>
    obtain ⟨u, hc, h⟩ := pushAll_cons_next.1 h
    obtain ⟨v, outs, hc', hu, hv, hlive'⟩ := hc.simulate hs hk hlive
    have hk' : u.params = v.params := by
      obtain ⟨p, o, rfl, -⟩ := hc.exists_afterByte
      obtain ⟨q, o', rfl, -⟩ := hc'.exists_afterByte
      exact hk
    obtain ⟨t', outs', ht', hs', ht'', hlive''⟩ := ih h (hs.of_pushCase hc) hk' hlive'
    exact ⟨t', outs ++ outs', pushAll_cons_next.2 ⟨v, hc', ht'⟩, by rw [hs', hu, List.append_assoc],
      by rw [ht'', hv, List.append_assoc], hlive''⟩

/-- Fed the same bytes, parsers that agree on what is live append and return the same outcomes and agree again. -/
theorem feedBytes_simulate (bytes : List Byte) (hs : s.Inv) (hk : s.params = t.params)
    (hlive : s.parser.SameLive t.parser) :
    ∃ s' t' outs, feedBytes bytes s = .next s' ∧ feedBytes bytes t = .next t' ∧ s'.out = s.out ++ outs ∧
      t'.out = t.out ++ outs ∧ s'.result = t'.result ∧ s'.parser.SameLive t'.parser := by
  obtain ⟨s', hs', -⟩ := hs.exists_pushAll bytes
  obtain ⟨t', outs, ht', hso, hto, hlive'⟩ := pushAll_simulate hs' hs hk hlive
  exact ⟨_, _, outs, feedBytes_of_pushAll hs' hso, feedBytes_of_pushAll ht' hto, hso, hto, rfl, hlive'⟩

/-! ### The obligations -/

/-- Settles O57: agreement is a simulation, with equal outcomes at every byte. -/
theorem staleRegistersAreUnobservable : Obligations.StaleRegistersAreUnobservable := by
  intro s t bytes hs _ hk hlive
  obtain ⟨s', t', outs, hfs, hft, -, -, hresult, hlive'⟩ := feedBytes_simulate bytes hs hk hlive
  exact ⟨s', t', hfs, hft, hresult, hlive'⟩

/-- Settles O58: in `Idle` at offset 0 nothing else is live, so a restarted parser agrees with a fresh one. -/
theorem rstDiscardsFrameInProgress : Obligations.RstDiscardsFrameInProgress := by
  intro s bytes hs
  obtain ⟨t, u, outs, hft, hfu, hto, huo, hresult, hlive⟩ :=
    feedBytes_simulate (t := { State.reset with params := s.params }) bytes hs.restart rfl
      (Parser.sameLive_of_idle rfl rfl rfl)
  exact ⟨s.restart, t, u, rfl, hft, hfu, hto.trans huo.symm, hresult, hlive.1⟩

end Sys2Proof.Machine
end

section
/-!
Whole frames through the parser (42_stream_parser R125, R135 to R138; 70_reset_and_hazards R173): what FEED of a header,
of a payload and of a checksum byte does, composed by one rule for FEED of a concatenation.
-/
namespace Sys2Proof

/-! ### A frame's bytes, cut where the parser's phases change -/

/-- The bytes of a frame up to its payload (R54, R55). -/
def RawFrame.header (f : RawFrame) : List Byte :=
  match f.gen with
  | .legacy => [startMarker, genMarker .legacy, dirMarker f.dir, lo8 f.size, lo8 f.cmd]
  | .extended =>
    [startMarker, genMarker .extended, dirMarker f.dir, f.flag, lo8 f.cmd, hi8 f.cmd, lo8 f.size, hi8 f.size]

theorem RawFrame.wire_eq (f : RawFrame) : f.wire = f.header ++ f.payload ++ [f.checksum] := by
  cases hg : f.gen <;> simp only [wire, header, hg, frameLBytes, frameXBytes]

/-- The covered bytes of the header (R59). -/
def RawFrame.coveredHeader (f : RawFrame) : List Byte := { f with payload := [] }.covered

theorem RawFrame.covered_eq (f : RawFrame) : f.covered = f.coveredHeader ++ f.payload := by
  cases hg : f.gen <;> simp [coveredHeader, covered, hg, coveredL, coveredX]

/-- A frame whose size field is its payload's length and whose fields fit their bytes, the checksum being right or
wrong: what is verified of a record apart from its checksum (R29). -/
def RawFrame.Formed (f : RawFrame) : Prop :=
  f.payload.length = f.size.toNat ∧ (f.gen = .legacy → f.flag = 0 ∧ f.cmd.toNat ≤ 255 ∧ f.size.toNat ≤ 255)

theorem RawFrame.Verified.formed {f : RawFrame} (h : f.Verified) : f.Formed := ⟨h.1, h.2.2⟩

theorem RawFrame.formed_ofLegacy {d : Dir} {size cmd : Byte} {payload : List Byte} {k : Byte}
    (h : payload.length = size.toNat) : (ofLegacy d size cmd payload k).Formed :=
  ⟨h.trans (zext16_toNat size).symm, fun _ => ⟨rfl, (zext16_toNat cmd).trans_le (Nat.le_of_lt_succ cmd.isLt),
    (zext16_toNat size).trans_le (Nat.le_of_lt_succ size.isLt)⟩⟩

theorem RawFrame.formed_ofExtended {d : Dir} {flag : Byte} {cmd size : Half} {payload : List Byte} {k : Byte}
    (h : payload.length = size.toNat) : (ofExtended d flag cmd size payload k).Formed :=
  ⟨h, nofun⟩

namespace Machine

/-! ### FEED from a state, and FEED of a concatenation -/

/-- The state after `n` bytes that leave the registers `p` and append `outs` in all. -/
def State.received (s : State) (n : Nat) (p : Parser) (outs : List StreamOutcome) : State :=
  { s with
    parser := { p with offset := s.parser.offset + BitVec.ofNat 64 n }
    out := s.out ++ outs
    result := .outcomes outs }

/-- FEED of the bytes leaves the registers `p`, appends and returns `outs`, and counts every byte. -/
def State.Reads (s : State) (bytes : List Byte) (p : Parser) (outs : List StreamOutcome) : Prop :=
  feedBytes bytes s = .next (s.received bytes.length p outs)

theorem feedBytes_withResult (bytes : List Byte) (s : State) (r : OpResult) :
    feedBytes bytes (s.withResult r) = feedBytes bytes s := by
  cases bytes with
  | nil => rfl
  | cons b bytes => rw [feedBytes, pushAll, pushByte_withResult]; rfl

/-- FEED of a concatenation is FEED of its parts, the outcomes of both being returned (R134). -/
theorem feedBytes_append {s t u : State} {xs ys : List Byte} {outs outs' : List StreamOutcome}
    (h : feedBytes xs s = .next t) (h' : feedBytes ys t = .next u) (ht : t.out = s.out ++ outs)
    (hu : u.out = t.out ++ outs') : feedBytes (xs ++ ys) s = .next (u.withResult (.outcomes (outs ++ outs'))) := by
  obtain ⟨v, hv, rfl⟩ := feedBytes_next.1 h
  rw [feedBytes_withResult] at h'
  obtain ⟨w, hw, rfl⟩ := feedBytes_next.1 h'
  exact feedBytes_of_pushAll (t := w) ((pushAll_append_of_next ys hv).trans hw)
    (by rw [← List.append_assoc, ← ht]; exact hu)

section Reads

variable {s : State} {p q : Parser} {outs outs' : List StreamOutcome}

theorem State.reads_nil (s : State) : s.Reads [] s.parser [] := by
  rw [State.Reads, State.received, List.length_nil, BitVec.add_zero, List.append_nil]
  exact feedBytes_of_pushAll (bytes := []) rfl (List.append_nil _).symm

theorem State.Reads.append {xs ys : List Byte} (h : s.Reads xs p outs)
    (h' : (s.received xs.length p outs).Reads ys q outs') : s.Reads (xs ++ ys) q (outs ++ outs') := by
  rw [State.Reads, feedBytes_append h h' rfl rfl, List.length_append]
  simp only [State.received, State.withResult, offset_add_assoc, List.append_assoc]

theorem PushCase.reads {b : Byte} (hc : PushCase s b (s.afterByte p outs)) : s.Reads [b] p outs :=
  feedBytes_of_pushAll ((pushAll_singleton b s).trans hc.pushByte_eq) rfl

/-- Bytes pushed one after another without an outcome, given the registers they leave. -/
theorem State.Reads.of_pushAll {t : State} {bytes : List Byte} (h : pushAll bytes s = .next t)
    (ht : t.forgetResult = (s.received bytes.length p []).forgetResult) : s.Reads bytes p [] := by
  have hout : t.out = s.out ++ [] := congrArg State.out ht
  rw [State.Reads, feedBytes_of_pushAll h hout]
  exact congrArg (fun u => Host.Outcome.next (State.withResult u (.outcomes []))) ht

/-- Bytes without a start marker are skipped in `Idle` (R112, R66). -/
theorem State.reads_of_no_start {bytes : List Byte} (hp : s.parser.phase = .idle) (h : startMarker ∉ bytes) :
    s.Reads bytes s.parser [] := by
  induction bytes generalizing s with
  | nil => exact s.reads_nil
  | cons b bytes ih =>
    obtain ⟨hb, hbytes⟩ := not_or.1 (mt List.mem_cons.2 h)
    have hskip : { s.parser with phase := .idle } = s.parser := by rw [← hp]
    have hbyte : s.Reads [b] s.parser [] := by
      have := (PushCase.skip hp (Ne.symm hb)).reads
      rwa [hskip] at this
    exact hbyte.append (ih (s := s.received 1 s.parser []) hp hbytes)

end Reads

/-! ### The header -/

/-- The registers after the header of `f`: the countdown is set up and the checksum covers the header (R117 to R122). -/
def Parser.afterHeader (p : Parser) (f : RawFrame) : Parser :=
  { p with
    phase := phaseAfterHeader f.size
    gen := f.gen
    dir := f.dir
    flag := if f.gen = .extended then f.flag else p.flag
    cmd := f.cmd
    size := f.size
    idx := .low
    rem := f.size
    acc := checksumOf f.gen f.coveredHeader }

theorem withHigh_withLow (v : Half) (lo hi : Byte) : withHigh (withLow v lo) hi = u16le lo hi := by
  simp [withHigh]

section Header

variable {s : State} {f : RawFrame}

theorem State.reads_header_legacy (hp : s.parser.phase = .idle) (hg : f.gen = .legacy) (hf : f.Formed)
    (hfits : s.params.Fits f.gen f.size) : s.Reads f.header (s.parser.afterHeader f) [] := by
  obtain ⟨-, hlegacy⟩ := hf
  obtain ⟨-, hcmd, hsize⟩ := hlegacy hg
  have hcap : lo8 f.size ≤ s.params.maxLegacy := by
    rw [hg] at hfits
    rw [BitVec.le_def, lo8_toNat, Nat.mod_eq_of_lt (Nat.lt_succ_of_le hsize)]
    exact hfits
  have hheader : f.header = [startMarker, genMarker .legacy, dirMarker f.dir, lo8 f.size, lo8 f.cmd] := by
    simp only [RawFrame.header, hg]
  rw [hheader]
  refine State.Reads.of_pushAll
    (pushAll_cons_next.2 ⟨_, .start hp rfl,
      pushAll_cons_next.2 ⟨_, .generation .legacy rfl rfl,
      pushAll_cons_next.2 ⟨_, .direction f.dir rfl rfl,
      pushAll_cons_next.2 ⟨_, .legacySize rfl rfl hcap,
      pushAll_cons_next.2 ⟨_, .legacyCommand rfl rfl, rfl⟩⟩⟩⟩⟩) ?_
  simp [State.received, State.afterByte, State.forgetResult, Parser.afterHeader, hg, zext16_lo8 hcmd, zext16_lo8 hsize,
    BitVec.add_assoc, RawFrame.coveredHeader, RawFrame.covered, coveredL, checksumOf, xorFold]

theorem State.reads_header_extended (hp : s.parser.phase = .idle) (hg : f.gen = .extended)
    (hfits : s.params.Fits f.gen f.size) : s.Reads f.header (s.parser.afterHeader f) [] := by
  have hcap : withHigh (withLow s.parser.size (lo8 f.size)) (hi8 f.size) ≤ s.params.maxExt := by
    rw [hg] at hfits
    rw [withHigh_withLow, u16le_lo8_hi8]
    exact hfits
  have hheader : f.header = [startMarker, genMarker .extended, dirMarker f.dir, f.flag, lo8 f.cmd, hi8 f.cmd,
      lo8 f.size, hi8 f.size] := by
    simp only [RawFrame.header, hg]
  rw [hheader]
  refine State.Reads.of_pushAll
    (pushAll_cons_next.2 ⟨_, .start hp rfl,
      pushAll_cons_next.2 ⟨_, .generation .extended rfl rfl,
      pushAll_cons_next.2 ⟨_, .direction f.dir rfl rfl,
      pushAll_cons_next.2 ⟨_, .flag rfl rfl,
      pushAll_cons_next.2 ⟨_, .commandLow rfl rfl rfl,
      pushAll_cons_next.2 ⟨_, .commandHigh rfl rfl rfl,
      pushAll_cons_next.2 ⟨_, .sizeLow rfl rfl rfl,
      pushAll_cons_next.2 ⟨_, .sizeHigh rfl rfl rfl hcap, rfl⟩⟩⟩⟩⟩⟩⟩⟩) ?_
  simp [State.received, State.afterByte, State.forgetResult, Parser.afterHeader, hg, withHigh_withLow,
    BitVec.add_assoc, RawFrame.coveredHeader, RawFrame.covered, coveredX, checksumOf, crc8]

theorem State.reads_header (hp : s.parser.phase = .idle) (hf : f.Formed) (hfits : s.params.Fits f.gen f.size) :
    s.Reads f.header (s.parser.afterHeader f) [] := by
  cases hg : f.gen with
  | legacy => exact State.reads_header_legacy hp hg hf hfits
  | extended => exact State.reads_header_extended hp hg hfits

end Header

/-! ### The payload -/

/-- The registers after the payload bytes `vs`: stored from the store index on, folded in and counted down (R124). -/
def Parser.takePayloads (p : Parser) (vs : List Byte) : Parser :=
  { p with
    pbuf := Memory.writeRange p.pbuf p.payloadIndex vs
    acc := vs.foldl (checksumStep p.gen) p.acc
    rem := p.rem - BitVec.ofNat 16 vs.length
    phase := phaseAfterHeader (p.rem - BitVec.ofNat 16 vs.length) }

theorem Parser.takePayloads_nil {p : Parser} (hp : p.phase = phaseAfterHeader p.rem) : p.takePayloads [] = p := by
  simp only [Parser.takePayloads, List.length_nil, BitVec.sub_zero, ← hp]; rfl

/-- The store index moves on by one (R37, R87). -/
theorem Parser.payloadIndex_takePayload {p : Parser} (hpos : 1 ≤ p.rem.toNat) (hle : p.rem.toNat ≤ p.size.toNat)
    (v : Byte) : (p.takePayload v).payloadIndex = p.payloadIndex + 1 := by
  have hpred := half_toNat_pred hpos
  have hle' : (p.takePayload v).rem.toNat ≤ (p.takePayload v).size.toNat :=
    show (p.rem - 1).toNat ≤ p.size.toNat by omega
  rw [Parser.payloadIndex_of_le hle, Parser.payloadIndex_of_le hle', Parser.takePayload_rem, Parser.takePayload_size]
  omega

theorem Parser.takePayloads_cons {p : Parser} (hpos : 1 ≤ p.rem.toNat) (hle : p.rem.toNat ≤ p.size.toNat) (v : Byte)
    (vs : List Byte) : p.takePayloads (v :: vs) = (p.takePayload v).takePayloads vs := by
  have hrem : p.rem - BitVec.ofNat 16 (vs.length + 1) = p.rem - 1 - BitVec.ofNat 16 vs.length := by
    rw [Nat.add_comm, BitVec.ofNat_add, sub_sub]; rfl
  simp only [Parser.takePayloads, Parser.payloadIndex_takePayload hpos hle v, List.length_cons, hrem]
  rfl

theorem State.reads_payload {s : State} {vs : List Byte} (hp : s.parser.phase = phaseAfterHeader s.parser.rem)
    (hlen : vs.length ≤ s.parser.rem.toNat) (hle : s.parser.rem.toNat ≤ s.parser.size.toNat)
    (hcap : s.parser.size.toNat ≤ s.params.pbufCap) : s.Reads vs (s.parser.takePayloads vs) [] := by
  induction vs generalizing s with
  | nil => rw [Parser.takePayloads_nil hp]; exact s.reads_nil
  | cons v vs ih =>
    rw [List.length_cons] at hlen
    have hpos : 1 ≤ s.parser.rem.toNat := by omega
    have hne : s.parser.rem ≠ 0 := by rintro hz; rw [hz] at hpos; exact absurd hpos (by decide)
    have hpred := half_toNat_pred hpos
    have hindex : s.parser.payloadIndex < s.params.pbufCap := by rw [Parser.payloadIndex_of_le hle]; omega
    have hbyte : s.Reads [v] (s.parser.takePayload v) [] :=
      (PushCase.payload (hp.trans (phaseAfterHeader_of_ne hne)) hne hindex).reads
    have hrest := ih (s := s.received 1 (s.parser.takePayload v) []) rfl
      (show vs.length ≤ (s.parser.rem - 1).toNat by omega)
      (show (s.parser.rem - 1).toNat ≤ s.parser.size.toNat by omega) hcap
    rw [Parser.takePayloads_cons hpos hle]
    exact hbyte.append hrest

/-! ### Header, payload and checksum together -/

/-- The registers after the whole frame `f`: in `Idle`, with its payload in the buffer. -/
def Parser.afterFrame (p : Parser) (f : RawFrame) : Parser :=
  { p with
    phase := .idle
    gen := f.gen
    dir := f.dir
    flag := if f.gen = .extended then f.flag else p.flag
    cmd := f.cmd
    size := f.size
    idx := .low
    rem := 0
    acc := checksumOf f.gen f.covered
    pbuf := Memory.writeRange p.pbuf 0 f.payload }

theorem checksumOf_append (g : Gen) (xs ys : List Byte) :
    checksumOf g (xs ++ ys) = ys.foldl (checksumStep g) (checksumOf g xs) := by
  cases g <;> exact List.foldl_append

/-- The payload of a frame fills the buffer from 0 on and leads to its checksum (R124, R37). -/
theorem Parser.takePayloads_afterHeader (p : Parser) {f : RawFrame} (hf : f.Formed) :
    (p.afterHeader f).takePayloads f.payload = { p.afterFrame f with phase := .readingChecksum } := by
  obtain ⟨hlen, -⟩ := hf
  have hrem : f.size - BitVec.ofNat 16 f.payload.length = 0 := by rw [hlen, BitVec.ofNat_toNat]; simp
  have hindex : (p.afterHeader f).payloadIndex = 0 := by simp [Parser.payloadIndex, Parser.afterHeader]
  have hacc : f.payload.foldl (checksumStep f.gen) (checksumOf f.gen f.coveredHeader) = checksumOf f.gen f.covered := by
    rw [← checksumOf_append, ← RawFrame.covered_eq]
  rw [Parser.takePayloads, hindex]
  simp only [Parser.afterHeader, Parser.afterFrame, hrem, hacc]
  rfl

/-- What the frame is reported as at its checksum byte, the byte `o` of the stream (R125, R126). -/
def frameOutcome (f : RawFrame) (o : Offset) : StreamOutcome :=
  if f.checksum = checksumOf f.gen f.covered then .frame f else .error .checksumMismatch o

section Frame

variable {s : State} {f : RawFrame}

/-- All of a frame but its checksum byte reports nothing. -/
theorem State.reads_body (hp : s.parser.phase = .idle) (hf : f.Formed) (hfits : s.params.Fits f.gen f.size) :
    s.Reads (f.header ++ f.payload) { s.parser.afterFrame f with phase := .readingChecksum } [] := by
  rw [← Parser.takePayloads_afterHeader s.parser hf]
  have hpayload := State.reads_payload (s := s.received f.header.length (s.parser.afterHeader f) []) rfl hf.1.le le_rfl
    hfits.le_pbufCap
  exact (State.reads_header hp hf hfits).append hpayload

/-- In `ReadingChecksum` with the payload of `f` in the buffer the frame is reported. -/
theorem PushCase.of_checksum {u : State} (hphase : u.parser.phase = .readingChecksum)
    (hcap : f.size.toNat ≤ u.params.pbufCap) (hsize : u.parser.size = f.size)
    (hacc : u.parser.acc = checksumOf f.gen f.covered)
    (hread : Memory.readRange u.parser.pbuf 0 f.size.toNat = some f.payload)
    (hraw : u.parser.rawFrame f.payload f.checksum = f) :
    PushCase u f.checksum (u.afterByte { u.parser with phase := .idle } [frameOutcome f u.parser.offset]) := by
  by_cases hk : f.checksum = checksumOf f.gen f.covered
  · rw [frameOutcome, if_pos hk]
    have hc := PushCase.delivered f.payload hphase (hk.trans hacc.symm) (hsize ▸ hcap) (hsize ▸ hread)
    rwa [hraw] at hc
  · rw [frameOutcome, if_neg hk]
    exact .badChecksum hphase (hacc ▸ hk)

theorem Parser.rawFrame_afterFrame (p : Parser) (hf : f.Formed) :
    (p.afterFrame f).rawFrame f.payload f.checksum = f := by
  obtain ⟨gen, d, flag, cmd, size, payload, k⟩ := f
  obtain ⟨-, hlegacy⟩ := hf
  cases gen with
  | legacy => exact congrArg (RawFrame.mk _ _ · _ _ _ _) (hlegacy rfl).1.symm
  | extended => rfl

/-- A whole frame, its checksum right or wrong, is reported once, at its last byte. -/
theorem State.reads_wire (hp : s.parser.phase = .idle) (hf : f.Formed) (hfits : s.params.Fits f.gen f.size) :
    s.Reads f.wire (s.parser.afterFrame f)
      [frameOutcome f (s.parser.offset + BitVec.ofNat 64 (f.header ++ f.payload).length)] := by
  have hread : Memory.readRange (Memory.writeRange s.parser.pbuf 0 f.payload) 0 f.size.toNat = some f.payload := by
    rw [← hf.1]; exact Memory.readRange_writeRange _ _ _
  rw [RawFrame.wire_eq]
  exact (State.reads_body hp hf hfits).append
    (PushCase.of_checksum (u := s.received _ { s.parser.afterFrame f with phase := .readingChecksum } []) rfl
      hfits.le_pbufCap rfl rfl hread (s.parser.rawFrame_afterFrame hf)).reads

theorem State.reads_verified (hp : s.parser.phase = .idle) (hv : f.Verified) (hfits : s.params.Fits f.gen f.size) :
    s.Reads f.wire (s.parser.afterFrame f) [.frame f] := by
  have h := State.reads_wire hp hv.formed hfits
  rwa [frameOutcome, if_pos hv.2.1] at h

/-- The register that a verified frame leaves in the running checksum is the checksum it carries. -/
theorem Parser.afterFrame_of_verified (p : Parser) (hv : f.Verified) :
    p.afterFrame f = { p.afterFrame f with acc := f.checksum } := by
  rw [hv.2.1]; rfl

theorem State.reads_corrupted (hp : s.parser.phase = .idle) (hf : f.Formed) (hfits : s.params.Fits f.gen f.size)
    (hk : f.checksum ≠ checksumOf f.gen f.covered) :
    s.Reads f.wire (s.parser.afterFrame f)
      [.error .checksumMismatch (s.parser.offset + BitVec.ofNat 64 (f.header ++ f.payload).length)] := by
  have h := State.reads_wire hp hf hfits
  rwa [frameOutcome, if_neg hk] at h

theorem State.reads_corrupted_legacy {d : Dir} {size cmd k : Byte} {payload : List Byte} (hp : s.parser.phase = .idle)
    (hlen : payload.length = size.toNat) (hcap : size.toNat ≤ s.params.maxLegacy.toNat)
    (hk : k ≠ xorFold (coveredL size cmd payload)) :
    s.Reads (frameLBytes d size cmd payload k) (s.parser.afterFrame (.ofLegacy d size cmd payload k))
      [.error .checksumMismatch (s.parser.offset + BitVec.ofNat 64 (5 + payload.length))] := by
  have hcovered : (RawFrame.ofLegacy d size cmd payload k).covered = coveredL size cmd payload := by
    simp [RawFrame.covered, RawFrame.ofLegacy]
  have hread := State.reads_corrupted (f := .ofLegacy d size cmd payload k) hp (RawFrame.formed_ofLegacy hlen)
    ((zext16_toNat size).trans_le hcap) (hcovered.symm ▸ hk)
  rw [RawFrame.wire_ofLegacy, List.length_append] at hread
  exact hread

theorem State.reads_corrupted_extended {d : Dir} {flag k : Byte} {cmd size : Half} {payload : List Byte}
    (hp : s.parser.phase = .idle) (hlen : payload.length = size.toNat) (hcap : size.toNat ≤ s.params.maxExt.toNat)
    (hk : k ≠ crc8 (coveredX flag cmd size payload)) :
    s.Reads (frameXBytes d flag cmd size payload k) (s.parser.afterFrame (.ofExtended d flag cmd size payload k))
      [.error .checksumMismatch (s.parser.offset + BitVec.ofNat 64 (8 + payload.length))] := by
  have hread := State.reads_corrupted (f := .ofExtended d flag cmd size payload k) hp
    (RawFrame.formed_ofExtended hlen) hcap hk
  rw [List.length_append] at hread
  exact hread

/-- Verified frames back to back are all reported, in order (R138). -/
theorem State.reads_frames {frames : List RawFrame} (hp : s.parser.phase = .idle)
    (h : ∀ f ∈ frames, f.Verified ∧ s.params.Fits f.gen f.size) :
    ∃ q, s.Reads (frames.flatMap RawFrame.wire) q (frames.map StreamOutcome.frame) ∧ q.phase = .idle := by
  induction frames generalizing s with
  | nil => exact ⟨_, s.reads_nil, hp⟩
  | cons f frames ih =>
    obtain ⟨hv, hfits⟩ := h f List.mem_cons_self
    have hread := State.reads_verified hp hv hfits
    obtain ⟨q, hrest, hq⟩ := ih (s := s.received f.wire.length (s.parser.afterFrame f) [.frame f]) rfl
      fun g hg => h g (List.mem_cons_of_mem f hg)
    exact ⟨q, hread.append hrest, hq⟩

end Frame

/-! ### Bytes that are no frame (R115, R116, R173) -/

section NoFrame

variable {s : State} {q : Parser} {outs : List StreamOutcome} {g d : Byte} {bytes rest : List Byte}

theorem State.Reads.append_no_start (h : s.Reads bytes q outs) (hq : q.phase = .idle) (hrest : startMarker ∉ rest) :
    s.Reads (bytes ++ rest) q outs := by
  have hskip := State.reads_of_no_start (s := s.received bytes.length q outs) hq hrest
  have happend := h.append hskip
  rw [List.append_nil] at happend
  exact happend

theorem State.reads_bad_generation (hp : s.parser.phase = .idle) (hg : g ≠ 0x4D ∧ g ≠ 0x58) :
    s.Reads [startMarker, g] { s.parser with phase := .idle } [.error .invalidPreamble (s.parser.offset + 1)] :=
  (PushCase.start hp rfl).reads.append
    (PushCase.badGeneration (s := s.received 1 { s.parser with phase := .sawStart } []) rfl
      (genOfMarker_eq_none.2 hg)).reads

theorem State.reads_bad_direction (hp : s.parser.phase = .idle) (g : Gen) (hd : d ≠ 0x3C ∧ d ≠ 0x3E ∧ d ≠ 0x21) :
    s.Reads [startMarker, genMarker g, d] { s.parser with phase := .idle, gen := g }
      [.error .unsupportedDirectionMarker (s.parser.offset + 2)] := by
  have hgen : s.Reads [startMarker, genMarker g] { s.parser with phase := .sawGenerationMarker, gen := g } [] :=
    (PushCase.start hp rfl).reads.append
      (PushCase.generation (s := s.received 1 { s.parser with phase := .sawStart } []) g rfl rfl).reads
  exact hgen.append
    (PushCase.badDirection (s := s.received 2 { s.parser with phase := .sawGenerationMarker, gen := g } []) rfl
      (dirOfMarker_eq_none.2 hd)).reads

end NoFrame

/-! ### The obligations -/

/-- Settles O29: from `Idle` each byte is skipped. -/
theorem silentSkippingInIdle : Obligations.SilentSkippingInIdle := by
  intro s bytes hp h
  rw [exec_feed, show feedBytes bytes s = _ from State.reads_of_no_start hp h, State.received, List.append_nil]

/-- Settles O30: the frame is a verified record's, and the buffer is the old one with the payload written from 0 on. -/
theorem legacyFrameRowsDeliver : Obligations.LegacyFrameRowsDeliver := by
  intro s size cmd payload k hp hlen hcap hk
  refine ⟨Memory.writeRange s.parser.pbuf 0 payload, fun a => by simp [Memory.read_writeRange], ?_⟩
  have hdeliver (d : Dir) := by
    have hv := (RawFrame.verified_ofLegacy (d := d)).2 ⟨hlen, hk⟩
    have hread := State.reads_verified hp hv ((zext16_toNat size).trans_le hcap)
    rwa [Parser.afterFrame_of_verified _ hv, RawFrame.wire_ofLegacy, State.Reads, length_frameLBytes] at hread
  exact ⟨hdeliver .toDevice, hdeliver .fromDevice, hdeliver .error⟩

/-- Settles O31: the extended counterpart. -/
theorem extendedFrameRowsDeliver : Obligations.ExtendedFrameRowsDeliver := by
  intro s flag cmd size payload k hp hlen hcap hk
  refine ⟨Memory.writeRange s.parser.pbuf 0 payload, fun a => by simp [Memory.read_writeRange], ?_⟩
  have hdeliver (d : Dir) := by
    have hv := (RawFrame.verified_ofExtended (d := d)).2 ⟨hlen, hk⟩
    have hread := State.reads_verified hp hv hcap
    rwa [Parser.afterFrame_of_verified _ hv, RawFrame.wire_ofExtended, State.Reads, length_frameXBytes] at hread
  exact ⟨hdeliver .toDevice, hdeliver .fromDevice, hdeliver .error⟩

/-- Settles O33: FEED of each frame reports it and returns to `Idle`. -/
theorem validFrameSequencesAreDelivered : Obligations.ValidFrameSequencesAreDelivered := by
  intro s frames hp h
  obtain ⟨q, hread, hq⟩ := State.reads_frames hp h
  exact ⟨_, hread, rfl, hq, rfl⟩

/-- Settles O36: the frame's own start marker is an illegal generation marker, and the rest is skipped. -/
theorem strayStartMarkerLosesFrame : Obligations.StrayStartMarkerLosesFrame := by
  intro s v hp hrest
  have hwire : v.wire = startMarker :: v.wire.tail := by
    cases hg : v.gen <;> simp only [RawFrame.wire, hg] <;> rfl
  have hread := (State.reads_bad_generation (g := startMarker) hp (by decide)).append_no_start rfl hrest
  rw [hwire]
  exact ⟨_, hread, rfl, rfl⟩

/-- Settles O35: FEED of the corrupted bytes reports them as said and ends in `Idle`, from where the frame is read. -/
theorem resynchronisesAfterCorruption : Obligations.ResynchronisesAfterCorruption := by
  intro s v hp hv hfits yields
  have hyields {c : List Byte} {q : Parser} {outs : List StreamOutcome} (hread : s.Reads c q outs)
      (hq : q.phase = .idle) : yields c (outs ++ [.frame v]) :=
    ⟨_, hread.append (State.reads_verified (s := s.received c.length q outs) hq hv hfits), rfl, rfl⟩
  refine ⟨fun d size cmd payload k hlen hcap hk => ?_, fun d flag cmd size payload k hlen hcap hk => ?_,
    fun g rest hM hX hrest => ?_, fun g d rest hTo hFrom hErr hrest => ?_, fun c hc => ?_⟩
  · have hread := State.reads_corrupted_legacy (d := d) (cmd := cmd) hp hlen hcap hk
    exact hyields hread rfl
  · have hread := State.reads_corrupted_extended (d := d) hp hlen hcap hk
    exact hyields hread rfl
  · exact hyields ((State.reads_bad_generation hp ⟨hM, hX⟩).append_no_start rfl hrest) rfl
  · exact hyields ((State.reads_bad_direction hp g ⟨hTo, hFrom, hErr⟩).append_no_start rfl hrest) rfl
  · exact hyields (State.reads_of_no_start hp hc) hp

end Machine
end Sys2Proof
end

section
/-!
Agreement of DEC with the parser (41_frame_codec R105). Each cause in DEC's table says how the sequence lies to the wire
bytes of some frame: equal to them, the beginning of them, or longer; and that decides what FEED of it shows. What FEED
shows under two causes is never the same, which gives the converse.
-/
namespace Sys2Proof

/-! ### A sequence against the wire bytes of a frame -/

/-- The sequence begins some frame and does not finish it, whatever its checksum byte. -/
def BeginsFrame (w : List Byte) : Prop := ∃ (f : RawFrame) (z : List Byte), f.Formed ∧ z ≠ [] ∧ w ++ z = f.wire

theorem BeginsFrame.of_append {w y : List Byte} (h : BeginsFrame (w ++ y)) : BeginsFrame w := by
  obtain ⟨f, z, hf, hz, hw⟩ := h
  exact ⟨f, y ++ z, hf, by simp [hz], by rw [← hw, List.append_assoc]⟩

theorem beginsFrame_legacy {d : Dir} {size : Byte} {rest : List Byte} (h : rest.length + 4 < 6 + size.toNat) :
    BeginsFrame (0x24 :: 0x4D :: dirMarker d :: size :: rest) := by
  have hpad : 0 < size.toNat + 2 - rest.length := by omega
  obtain ⟨cmd, payload, k, hw, hlen⟩ := exists_eq_frameLBytes (d := d) (size := size)
    (rest := rest ++ List.replicate (size.toNat + 2 - rest.length) 0) (by simp; omega)
  exact ⟨.ofLegacy d size cmd payload k, _, RawFrame.formed_ofLegacy hlen, by simpa using hpad.ne',
    hw.trans (RawFrame.wire_ofLegacy ..).symm⟩

theorem beginsFrame_extended {d : Dir} {flag c0 c1 z0 z1 : Byte} {rest : List Byte}
    (h : rest.length + 8 < 9 + (u16le z0 z1).toNat) :
    BeginsFrame (0x24 :: 0x58 :: dirMarker d :: flag :: c0 :: c1 :: z0 :: z1 :: rest) := by
  have hpad : 0 < (u16le z0 z1).toNat + 1 - rest.length := by omega
  obtain ⟨payload, k, hw, hlen⟩ := exists_eq_frameXBytes (d := d) (flag := flag) (c0 := c0) (c1 := c1)
    (z0 := z0) (z1 := z1) (rest := rest ++ List.replicate ((u16le z0 z1).toNat + 1 - rest.length) 0) (by simp; omega)
  exact ⟨.ofExtended d flag _ _ payload k, _, RawFrame.formed_ofExtended hlen, by simpa using hpad.ne', hw⟩

theorem beginsFrame_extended_header {d : Dir} {rest : List Byte} (h : rest.length ≤ 5) :
    BeginsFrame (0x24 :: 0x58 :: dirMarker d :: rest) := by
  apply BeginsFrame.of_append (y := List.replicate (5 - rest.length) 0)
  have hlen : (rest ++ List.replicate (5 - rest.length) (0 : Byte)).length = 5 := by simp; omega
  match hrest : rest ++ List.replicate (5 - rest.length) (0 : Byte), hlen with
  | [flag, c0, c1, z0, z1], _ =>
    simp only [List.cons_append, hrest]
    exact beginsFrame_extended (by simp; omega)

theorem beginsFrame_markers (g : Gen) (d : Dir) : BeginsFrame [0x24, genMarker g, dirMarker d] := by
  cases g with
  | legacy => exact (beginsFrame_legacy (d := d) (size := 0) (rest := []) (by simp)).of_append (y := [0])
  | extended => exact beginsFrame_extended_header (by simp)

/-- What DEC calls truncated begins a frame (R102). -/
theorem beginsFrame_of_truncated {rest : List Byte} (h : DecCause (0x24 :: rest) (.error .truncatedFrame)) :
    BeginsFrame (0x24 :: rest) := by
  have hmarkers (g : Gen) := beginsFrame_markers g .toDevice
  obtain h | h | ⟨g, h⟩ | ⟨d, h | ⟨size, rest', h, hlen⟩ | ⟨rest', h, hlen⟩ |
    ⟨flag, c0, c1, z0, z1, rest', h, hlen⟩⟩ := h
  · cases h
  · rw [h]; exact (hmarkers .legacy).of_append (w := [0x24])
  · rw [h]; exact (hmarkers g).of_append (w := [0x24, genMarker g])
  · rw [h]; exact beginsFrame_markers .legacy d
  · rw [h] at hlen ⊢; exact beginsFrame_legacy hlen
  · rw [h] at hlen ⊢; exact beginsFrame_extended_header (by simp at hlen; omega)
  · rw [h] at hlen ⊢; exact beginsFrame_extended hlen

/-- What DEC calls a size mismatch is a frame with more bytes after it (R102). -/
theorem exists_wire_append_of_sizeMismatch {w : List Byte} (h : DecCause w (.error .sizeMismatch)) :
    ∃ (f : RawFrame) (z : List Byte), f.Formed ∧ z ≠ [] ∧ w = f.wire ++ z := by
  obtain ⟨d, ⟨size, rest, rfl, hlen⟩ | ⟨flag, c0, c1, z0, z1, rest, rfl, hlen⟩⟩ := h <;>
    simp only [List.length_cons] at hlen
  · obtain ⟨cmd, payload, k, hw, hsize⟩ := exists_eq_frameLBytes (d := d) (size := size)
      (rest := rest.take (size.toNat + 2)) (by simp; omega)
    refine ⟨.ofLegacy d size cmd payload k, rest.drop (size.toNat + 2), RawFrame.formed_ofLegacy hsize,
      by simp; omega, ?_⟩
    rw [RawFrame.wire_ofLegacy, ← hw, List.cons_append, List.cons_append, List.cons_append, List.cons_append,
      List.take_append_drop]
  · obtain ⟨payload, k, hw, hsize⟩ := exists_eq_frameXBytes (d := d) (flag := flag) (c0 := c0) (c1 := c1)
      (z0 := z0) (z1 := z1) (rest := rest.take ((u16le z0 z1).toNat + 1)) (by simp; omega)
    refine ⟨.ofExtended d flag (u16le c0 c1) (u16le z0 z1) payload k, rest.drop ((u16le z0 z1).toNat + 1),
      RawFrame.formed_ofExtended hsize, by simp; omega, ?_⟩
    rw [RawFrame.wire_ofExtended, ← hw]
    simp

/-- What DEC calls a checksum mismatch is a frame with a wrong checksum byte (R102). -/
theorem exists_wire_eq_of_checksumMismatch {w : List Byte} (h : DecCause w (.error .checksumMismatch)) :
    ∃ f : RawFrame, f.Formed ∧ f.checksum ≠ checksumOf f.gen f.covered ∧ w = f.wire := by
  obtain ⟨d, ⟨size, cmd, payload, k, rfl, hlen, hk⟩ | ⟨flag, cmd, size, payload, k, rfl, hlen, hk⟩⟩ := h
  · refine ⟨.ofLegacy d size cmd payload k, RawFrame.formed_ofLegacy hlen, ?_, (RawFrame.wire_ofLegacy ..).symm⟩
    simpa [RawFrame.covered, RawFrame.ofLegacy, checksumOf] using hk
  · exact ⟨.ofExtended d flag cmd size payload k, RawFrame.formed_ofExtended hlen, hk, rfl⟩

theorem RawFrame.wire_dropLast (f : RawFrame) : f.wire.dropLast = f.header ++ f.payload := by
  rw [wire_eq, List.dropLast_concat]

namespace Machine

/-- At the default capacities every frame fits (R8, R123). -/
theorem fits_default {f : RawFrame} (hf : f.Formed) : Params.default.Fits f.gen f.size := by
  obtain ⟨-, hlegacy⟩ := hf
  cases hg : f.gen with
  | legacy => exact (hlegacy hg).2.2
  | extended => exact Nat.le_of_lt_succ f.size.isLt

/-! ### What FEED shows of each result of DEC -/

/-- What FEED of `w` from `s` to `t` shows when DEC answers the given result on `w` (R105). -/
def Shows (s : State) (w : List Byte) (t : State) : Except ErrorCode RawFrame → Prop
  | .ok f => t.out = [.frame f] ∧ ∃ u, feedBytes w.dropLast s = .next u ∧ u.out = []
  | .error .checksumMismatch => t.out = [.error .checksumMismatch (BitVec.ofNat 64 (w.length - 1))]
  | .error .invalidPreamble => t.out.head? = some (.error .invalidPreamble 1)
  | .error .unsupportedDirectionMarker => t.out.head? = some (.error .unsupportedDirectionMarker 2)
  | .error .truncatedFrame => t.out = [] ∧ t.parser.phase ≠ .idle
  | .error .sizeMismatch =>
    ∃ k u, k < w.length ∧ feedBytes (w.take k) s = .next u ∧
      ((∃ f, u.out = [.frame f]) ∨ u.out = [.error .checksumMismatch (BitVec.ofNat 64 (k - 1))])
  | .error .payloadTooLarge => False
  | .error .unregisteredCommand => False

variable {s t u : State} {w rest xs ys : List Byte} {x y : Except ErrorCode RawFrame}

/-- What has been reported of the beginning of a sequence is reported first. -/
theorem feedBytes_append_out (hu : feedBytes xs s = .next u) (ht : feedBytes (xs ++ ys) s = .next t) :
    ∃ outs, t.out = u.out ++ outs := by
  obtain ⟨u', hu', rfl⟩ := feedBytes_next.1 hu
  obtain ⟨t', ht', rfl⟩ := feedBytes_next.1 ht
  rw [pushAll_append_of_next ys hu'] at ht'
  obtain ⟨outs, hext, -⟩ := pushAll_extends ht'
  exact ⟨outs, hext.out⟩

/-- The unfinished beginning of a frame is taken in silence and leaves the parser inside the frame. -/
theorem shows_of_beginsFrame (hp : s.parser.phase = .idle) (hout : s.out = []) (hk : s.params = Params.default)
    (ht : feedBytes (0x24 :: rest) s = .next t) (h : BeginsFrame (0x24 :: rest)) :
    Shows s (0x24 :: rest) t (.error .truncatedFrame) := by
  obtain ⟨f, z, hf, hz, hw⟩ := h
  have hbody := State.reads_body hp hf (hk ▸ fits_default hf)
  rw [← RawFrame.wire_dropLast, ← hw, List.dropLast_append_of_ne_nil hz] at hbody
  obtain ⟨outs, houts⟩ := feedBytes_append_out ht hbody
  obtain ⟨hsilent, -⟩ := List.append_eq_nil_iff.1 (houts.symm.trans ((List.append_nil _).trans hout))
  refine ⟨hsilent, ?_⟩
  obtain ⟨u, hu, rfl⟩ := feedBytes_next.1 ht
  rw [pushAll_cons_of_next rest (PushCase.start hp rfl).pushByte_eq] at hu
  exact pushAll_phase_ne_idle (t := u) hu (by simp) (hsilent.trans (by simp [hout]))

/-- A report on a beginning of the sequence is the first report on the sequence. -/
theorem head?_out_of_reads {q : Parser} {o : StreamOutcome} (hout : s.out = []) (hread : s.Reads xs q [o])
    (ht : feedBytes (xs ++ ys) s = .next t) : t.out.head? = some o := by
  obtain ⟨outs, houts⟩ := feedBytes_append_out hread ht
  rw [houts, State.received, hout]; rfl

/-- A cause brings about what FEED shows. -/
theorem DecCause.shows (hp : s.parser.phase = .idle) (ho : s.parser.offset = 0) (hout : s.out = [])
    (hk : s.params = Params.default) (ht : feedBytes (0x24 :: rest) s = .next t) (h : DecCause (0x24 :: rest) x) :
    Shows s (0x24 :: rest) t x := by
  have hfits {f : RawFrame} (hf : f.Formed) : s.params.Fits f.gen f.size := hk ▸ fits_default hf
  match x with
  | .ok f =>
    obtain ⟨hv, hw⟩ := h
    have hread := State.reads_verified hp hv (hfits hv.formed)
    have hbody := State.reads_body hp hv.formed (hfits hv.formed)
    rw [← RawFrame.wire_dropLast, ← hw] at hbody
    rw [← hw] at hread
    cases ht.symm.trans hread
    exact ⟨by rw [State.received, hout]; rfl, _, hbody, by rw [State.received, hout]; rfl⟩
  | .error .checksumMismatch =>
    obtain ⟨f, hf, hwrong, hw⟩ := exists_wire_eq_of_checksumMismatch h
    have hread := State.reads_corrupted hp hf (hfits hf) hwrong
    rw [← RawFrame.wire_dropLast, ← hw, List.length_dropLast, ho, zero_add] at hread
    cases ht.symm.trans hread
    show s.out ++ _ = _
    rw [hout]; rfl
  | .error .invalidPreamble =>
    obtain ⟨a, r, ha, hne⟩ | ⟨g, r, hw, hg⟩ := h
    · cases ha; exact absurd rfl hne
    · cases hw
      have hfirst := head?_out_of_reads hout (State.reads_bad_generation hp hg) ht
      rwa [ho] at hfirst
  | .error .unsupportedDirectionMarker =>
    obtain ⟨g, d, r, hw, hd⟩ := h
    cases hw
    have hfirst := head?_out_of_reads hout (State.reads_bad_direction hp g hd) ht
    rwa [ho] at hfirst
  | .error .truncatedFrame => exact shows_of_beginsFrame hp hout hk ht (beginsFrame_of_truncated h)
  | .error .sizeMismatch =>
    obtain ⟨f, z, hf, hz, hw⟩ := exists_wire_append_of_sizeMismatch h
    have hread := State.reads_wire hp hf (hfits hf)
    rw [← RawFrame.wire_dropLast, List.length_dropLast, ho, zero_add, frameOutcome] at hread
    rw [hw]
    refine ⟨f.wire.length, _, by simp [List.length_pos_iff.2 hz], by rw [List.take_left]; exact hread, ?_⟩
    rw [State.received, hout]
    split
    · exact .inl ⟨f, rfl⟩
    · exact .inr rfl

/-! ### No two results show the same -/

/-- The result that a first outcome stands for, if the sequence has no bytes to spare. -/
def reportedResult : Option StreamOutcome → Except ErrorCode RawFrame
  | none => .error .truncatedFrame
  | some (.frame f) => .ok f
  | some (.error e _) => .error e

theorem Shows.eq_reportedResult (h : Shows s w t x) (hx : x ≠ .error .sizeMismatch) :
    x = reportedResult t.out.head? := by
  match x with
  | .ok f => obtain ⟨hout, -⟩ := h; rw [hout]; rfl
  | .error .checksumMismatch => rw [show t.out = _ from h]; rfl
  | .error .invalidPreamble => rw [show t.out.head? = _ from h]; rfl
  | .error .unsupportedDirectionMarker => rw [show t.out.head? = _ from h]; rfl
  | .error .truncatedFrame => obtain ⟨hout, -⟩ := h; rw [hout]; rfl
  | .error .sizeMismatch => exact absurd rfl hx

/-- A sequence with bytes to spare shows nothing else: its frame is reported before the last byte. -/
theorem Shows.eq_sizeMismatch (hout : s.out = []) (hlen : w.length < 2 ^ 64) (ht : feedBytes w s = .next t)
    (h : Shows s w t (.error .sizeMismatch)) (hy : Shows s w t y) : y = .error .sizeMismatch := by
  obtain ⟨k, u, hk, hu, hreport⟩ := h
  by_contra hne
  have hresult := hy.eq_reportedResult hne
  obtain ⟨outs, houts⟩ := feedBytes_append_out (ys := w.drop k) hu (by rwa [List.take_append_drop])
  rcases hreport with ⟨f, hf⟩ | herror
  · obtain rfl : y = .ok f := by rw [hresult, houts, hf]; rfl
    obtain ⟨-, v, hv, hsilent⟩ := hy
    have htake : w.dropLast.take k = w.take k := by
      rw [List.dropLast_eq_take, List.take_take, Nat.min_eq_left (by omega)]
    rw [← List.take_append_drop k w.dropLast, htake] at hv
    obtain ⟨outs', houts'⟩ := feedBytes_append_out hu hv
    rw [hsilent, hf] at houts'
    cases houts'
  · obtain rfl : y = .error .checksumMismatch := by rw [hresult, houts, herror]; rfl
    have hlast : t.out = _ := hy
    rw [houts, herror] at hlast
    injection hlast with hhead
    injection hhead with _ hoffset
    have hpos : k ≠ 0 := by
      rintro rfl
      cases hu
      cases hout.symm.trans herror
    have := congrArg BitVec.toNat hoffset
    simp only [BitVec.toNat_ofNat] at this
    omega

/-- DEC answers exactly what FEED shows. -/
theorem decodeFrame_eq_iff_shows (hp : s.parser.phase = .idle) (ho : s.parser.offset = 0) (hout : s.out = [])
    (hk : s.params = Params.default) (hlen : (0x24 :: rest : List Byte).length < 2 ^ 64)
    (ht : feedBytes (0x24 :: rest) s = .next t) : decodeFrame (0x24 :: rest) = x ↔ Shows s (0x24 :: rest) t x := by
  have hshows {x : Except ErrorCode RawFrame} (h : decodeFrame (0x24 :: rest) = x) : Shows s (0x24 :: rest) t x :=
    DecCause.shows hp ho hout hk ht (decodeFrame_eq_iff_decCause.1 h)
  refine ⟨hshows, fun hx => ?_⟩
  have hy := hshows rfl
  by_cases hsize : x = .error .sizeMismatch
  · subst hsize; exact hx.eq_sizeMismatch hout hlen ht hy
  by_cases hsize' : decodeFrame (0x24 :: rest) = .error .sizeMismatch
  · rw [hsize'] at hy ⊢; exact (hy.eq_sizeMismatch hout hlen ht hx).symm
  · rw [hy.eq_reportedResult hsize', ← hx.eq_reportedResult hsize]

/-- Settles O34: each clause is what FEED shows of one result of DEC. -/
theorem decAgreesWithParser : Obligations.DecAgreesWithParser := by
  intro s rest hs hp ho hout hk hlen w
  obtain ⟨u, hu, -⟩ := hs.exists_pushAll w
  obtain ⟨outs, hext, -⟩ := pushAll_extends hu
  have ht := feedBytes_of_pushAll hu hext.out
  have hiff (x : Except ErrorCode RawFrame) := decodeFrame_eq_iff_shows (x := x) hp ho hout hk hlen ht
  exact ⟨_, ht, fun f => hiff (.ok f), hiff (.error .checksumMismatch), hiff (.error .invalidPreamble),
    hiff (.error .unsupportedDirectionMarker), hiff (.error .truncatedFrame), hiff (.error .sizeMismatch)⟩

end Machine
end Sys2Proof
end
